-- ==== Sys2Proof/Word.lean ====
section
/-! DEFINITION. The bit vectors of the block: one bit, one byte, one 16-bit word (00_scope R7, 30_encoding R70). -/

namespace Sys2Proof

/-- One bit: a line level, a flag, a one-bit register. -/
abbrev Bit := BitVec 1

/-- One byte: the document has "no payload bit width other than 8" (42_byte_shift R120). -/
abbrev Byte := BitVec 8

/-- A command word or a micro-op word (30_encoding R70). -/
abbrev Word := BitVec 16

end Sys2Proof
end

