-- ==== Sys2Proof/Config.lean ====
section
/-! DEFINITION. The implementation parameters of 00_scope R6, what the environment does in one step
(10_state R34 to R38), and the free value that stands for an environment nobody has fixed. -/

namespace Sys2Proof

/-- The parameters "the model takes as an argument" (00_scope R6). They are a field of the state, so a statement
about every state is a statement about every value of them; no step writes them. -/
structure Params where
  /-- `P_HALF_TICKS`: timer ticks in one half bit period. -/
  halfTicks  : Nat
  /-- `P_TIMER_WIDTH`: width of `TCNT`. -/
  timerWidth : Nat
  /-- `P_LEN_WIDTH`: width of `LEN` and `IDX`. -/
  lenWidth   : Nat
  /-- `P_ADDR_WIDTH`: width of a buffer-memory address. -/
  addrWidth  : Nat
  /-- `P_PORT_BITS`: width of the port part of a pin reference. -/
  portBits   : Nat
  /-- `P_PIN_BITS`: width of the pin-number part of a pin reference. -/
  pinBits    : Nat
  deriving DecidableEq, Repr

/-- The constraints of the table of 00_scope R6. -/
def Params.wf (p : Params) : Bool :=
  decide (p.halfTicks ≤ 2 ^ p.timerWidth - 1) && decide (1 ≤ p.timerWidth) && decide (1 ≤ p.lenWidth) &&
    decide (1 ≤ p.addrWidth)

/-- The width of a pin reference (10_state R25). -/
def Params.pinWidth (p : Params) : Nat := p.portBits + p.pinBits

/-- The example values of 00_scope R6, which are not normative. DESIGN CHOICE (log 1): `State.reset` holds them. -/
def Params.example : Params := ⟨5, 16, 16, 32, 4, 4⟩

/-- The drive state of a pin (10_state R35). -/
inductive Drive where
  /-- Released: the pull-up may make the line 1. -/
  | rel
  /-- Actively driven to 0. -/
  | low
  deriving DecidableEq, Repr

/-- What the environment does in one step: the input ports of 10_state R34, the bus agent's level (R36), the timer's
ticks (R37), and what other agents do to buffer memory and to the pins (20_memory R61, R62).
A port value given here as a number is cut to its port's width where it is read. -/
structure Inputs where
  /-- `rst`, active high (70_reset_and_hazards R210). -/
  rst        : Bool
  /-- `cmd_valid`: the host offers a command. -/
  cmdValid   : Bool
  /-- `cmd_word`. -/
  cmdWord    : Word
  /-- `cmd_len`. -/
  cmdLen     : Nat
  /-- `cmd_buf`. -/
  cmdBuf     : Nat
  /-- `cmd_scl`. -/
  cmdScl     : Nat
  /-- `cmd_sda`. -/
  cmdSda     : Nat
  /-- The level the slaves and the pull-up give SDA while the block releases it (10_state R36). -/
  sdaLevel   : Bit
  /-- Ticks of the timer between this step's action and the next one (10_state R37); 0 is a stalled timer. -/
  ticks      : Nat
  /-- What `TCNT` becomes if those ticks carry it past its greatest value: the spec leaves the wrap open (U17). -/
  wrapTo     : Nat
  /-- Bytes other agents write to buffer memory, in order; those 20_memory R61 excludes have no effect. -/
  hostWrites : List Host.Cell
  /-- Drive states other agents give pins, in order; those 20_memory R62 excludes have no effect. -/
  pinActs    : List (Nat × Drive)
  deriving DecidableEq, Repr, Inhabited

/-- An environment that does nothing in a step: no reset, no offer, SDA pulled up, the timer stalled. -/
def Inputs.quiet : Inputs :=
  { rst := false, cmdValid := false, cmdWord := 0, cmdLen := 0, cmdBuf := 0, cmdScl := 0, cmdSda := 0,
    sdaLevel := 1, ticks := 0, wrapTo := 0, hostWrites := [], pinActs := [] }

/-- FREE VALUE (log 5): what the environment does in step number `n` when the state lists nothing for it.
It has no body, so no proof can use what it is (10_state R36 "a free draw for each read", R37, R34). -/
opaque Config.envInput : Nat → Inputs

end Sys2Proof
end

