-- ==== Sys2Proof/Syntax.lean ====
section
/-! DEFINITION. The operations of the block (one constructor per row of the opcode table), the command a host offers,
and the source-level call it is written from (30_encoding R71 to R78, R83, R84). -/

namespace Sys2Proof

/-- The line a micro-op acts on: `LSEL` 0 is SCL, 1 is SDA (30_encoding R77). -/
inductive Line where
  | scl
  | sda
  deriving DecidableEq, Repr

/-- The thirteen operations. Register fields are the operand fields of their words and nothing else: the operands
`LEN`, `BUF`, `SCL_REF`, `SDA_REF` of a command travel on their own ports (30_encoding R70). -/
inductive Instr where
  /-- WRITE: transmit `LEN` bytes to device `addr` (44_transactions R161). -/
  | write (addr : BitVec 7)
  /-- READ: receive `LEN` bytes from device `addr` (44_transactions R162). -/
  | read (addr : BitVec 7)
  /-- DELAY_HALF (40_delay_and_lines R90). -/
  | delayHalf
  /-- LINE_HIGH (40_delay_and_lines R92). -/
  | lineHigh (line : Line)
  /-- LINE_LOW (40_delay_and_lines R93). -/
  | lineLow (line : Line)
  /-- LINE_READ, of SDA only (40_delay_and_lines R94). -/
  | lineRead
  /-- START (41_start_stop R110). -/
  | start
  /-- STOP (41_start_stop R111). -/
  | stop
  /-- TX_BYTE of the byte `IMM8` (42_byte_shift R120). -/
  | txByte (imm : Byte)
  /-- RX_BYTE (42_byte_shift R121). -/
  | rxByte
  /-- CHECK_ACK (43_ack R140). -/
  | checkAck
  /-- SEND_ACK (43_ack R141). -/
  | sendAck
  /-- SEND_NACK (43_ack R142). -/
  | sendNack
  deriving DecidableEq, Repr

/-- A command as the host port carries it (10_state R34): the word and its four operands. -/
structure Offer where
  word : Word
  len  : Nat
  buf  : Nat
  scl  : Nat
  sda  : Nat
  deriving DecidableEq, Repr

/-- A pin as the listings write it, `P<port>.<pin>` (30_encoding R83). -/
structure PinName where
  port : Nat
  pin  : Nat
  deriving DecidableEq, Repr

/-- A source-level command `write`/`read <addr7>, <buf>, <len>, <scl>, <sda>` (30_encoding R83). -/
structure HostCall where
  /-- `false` for `write`, `true` for `read`. -/
  isRead : Bool
  addr   : Nat
  buf    : Nat
  len    : Nat
  scl    : PinName
  sda    : PinName
  deriving DecidableEq, Repr

end Sys2Proof
end

