-- ==== Sys2Proof/WellFormed.lean ====
section
/-! DEFINITION. The named checks: of an offered command (30_encoding R75), of a micro-op word (R79), and of a
source-level call (R75, R83, decision D28). Every term of `Instr` is well-formed by its types: a field of it has
exactly the width of its place in the word. -/

namespace Sys2Proof

/-- `wf_rsvd`: `cmd_word[15:12] = 0` (30_encoding R75). -/
def wfRsvd (o : Offer) : Bool := o.word.extractLsb' 12 4 == 0#4

/-- `wf_op`: `cmd_word[11:8] = 0x1` (30_encoding R75). -/
def wfOp (o : Offer) : Bool := o.word.extractLsb' 8 4 == 1#4

/-- `wf_pins_distinct`: `cmd_scl != cmd_sda` (30_encoding R75). -/
def wfPinsDistinct (o : Offer) : Bool := o.scl != o.sda

/-- `wf_buf_range`: `zext(cmd_buf) + zext(cmd_len) <= 2^P_ADDR_WIDTH` (30_encoding R75). -/
def wfBufRange (p : Params) (o : Offer) : Bool := decide (o.buf + o.len ≤ 2 ^ p.addrWidth)

/-- A command is admitted only if every named check passes (30_encoding R75). -/
def Offer.wf (p : Params) (o : Offer) : Bool :=
  wfRsvd o && wfOp o && wfPinsDistinct o && wfBufRange p o

/-- `CODE` is one of 0x1 to 0xB (30_encoding R79). -/
def wfUopCode (w : Word) : Bool := decide (1 ≤ (w.extractLsb' 12 4).toNat ∧ (w.extractLsb' 12 4).toNat ≤ 11)

/-- `RSVD` is 0 (30_encoding R79). -/
def wfUopRsvd (w : Word) : Bool := w.extractLsb' 9 3 == 0#3

/-- `LSEL`: free on LINE_HIGH and LINE_LOW, 1 on LINE_READ, 0 on every other micro-op (30_encoding R79). -/
def wfUopLsel (w : Word) : Bool :=
  let code := w.extractLsb' 12 4
  let lsel := w.extractLsb' 8 1
  code == 2#4 || code == 3#4 || (if code == 4#4 then lsel == 1#1 else lsel == 0#1)

/-- `IMM8` is 0 on every micro-op but TX_BYTE (30_encoding R79). -/
def wfUopImm (w : Word) : Bool := w.extractLsb' 12 4 == 7#4 || w.extractLsb' 0 8 == 0#8

/-- A micro-op word is not reserved (30_encoding R79). -/
def wfUopWord (w : Word) : Bool := wfUopCode w && wfUopRsvd w && wfUopLsel w && wfUopImm w

/-- "address must fit in 7 bits": a transcriber refuses a `deviceAddress > 0x7F` (30_encoding R75, D28). -/
def wfCallAddr (c : HostCall) : Bool := decide (c.addr ≤ 0x7F)

/-- The call's numbers fit the fields that carry them, whose widths 10_state R34 and 30_encoding R74 give. DESIGN CHOICE
(log 19): a transcriber refuses a wider number; the spec states a refusal only for the address (R75, D28). -/
def wfCallWidths (p : Params) (c : HostCall) : Bool :=
  decide (c.buf < 2 ^ p.addrWidth) && decide (c.len < 2 ^ p.lenWidth) &&
    decide (c.scl.port < 2 ^ p.portBits) && decide (c.scl.pin < 2 ^ p.pinBits) &&
    decide (c.sda.port < 2 ^ p.portBits) && decide (c.sda.pin < 2 ^ p.pinBits)

/-- A source-level call a transcriber accepts. -/
def HostCall.wf (p : Params) (c : HostCall) : Bool := wfCallAddr c && wfCallWidths p c

end Sys2Proof
end

