-- ==== Sys2Proof/Decode.lean ====
section
/-! DEFINITION. Decoding of command words and micro-op words, total and refusing by name (30_encoding R72, R78, R82),
and the encoder written from the same tables (R71, R73, R77, R84). -/

namespace Sys2Proof

/-- A row of 30_encoding R72 or R78: the word belongs to it when `(word & mask) = match`. -/
structure Row where
  pat  : Word
  mask : Word
  deriving DecidableEq, Repr

/-- `(word & mask) = match` (30_encoding R82). -/
def rowHits (r : Row) (w : Word) : Bool := w &&& r.mask == r.pat

def rowWrite     : Row := ⟨0x0100, 0xFF01⟩
def rowRead      : Row := ⟨0x0101, 0xFF01⟩
def rowDelayHalf : Row := ⟨0x1000, 0xFFFF⟩
def rowLineHigh  : Row := ⟨0x2000, 0xFEFF⟩
def rowLineLow   : Row := ⟨0x3000, 0xFEFF⟩
def rowLineRead  : Row := ⟨0x4100, 0xFFFF⟩
def rowStart     : Row := ⟨0x5000, 0xFFFF⟩
def rowStop      : Row := ⟨0x6000, 0xFFFF⟩
def rowTxByte    : Row := ⟨0x7000, 0xFF00⟩
def rowRxByte    : Row := ⟨0x8000, 0xFFFF⟩
def rowCheckAck  : Row := ⟨0x9000, 0xFFFF⟩
def rowSendAck   : Row := ⟨0xA000, 0xFFFF⟩
def rowSendNack  : Row := ⟨0xB000, 0xFFFF⟩

/-- The two rows of 30_encoding R72. -/
def cmdRows : List Row := [rowWrite, rowRead]

/-- The eleven rows of 30_encoding R78. -/
def uopRows : List Row :=
  [rowDelayHalf, rowLineHigh, rowLineLow, rowLineRead, rowStart, rowStop, rowTxByte, rowRxByte, rowCheckAck,
    rowSendAck, rowSendNack]

/-- Why a word is reserved (30_encoding R76, R79). -/
inductive DecodeError where
  /-- A command word with `RSVD != 0`. -/
  | cmdRsvd
  /-- A command word with `OP != 0x1`. -/
  | cmdOp
  /-- A micro-op word with `CODE` 0x0 or 0xC to 0xF. -/
  | uopCode
  /-- A micro-op word with `RSVD != 0`. -/
  | uopRsvd
  /-- A micro-op word with a wrong `LSEL`. -/
  | uopLsel
  /-- A micro-op word with a nonzero `IMM8` where none is used. -/
  | uopImm
  deriving DecidableEq, Repr

/-- `DEV_ADDR`, bits 7:1 of a command word (30_encoding R71). -/
def devAddrOf (w : Word) : BitVec 7 := w.extractLsb' 1 7

/-- `RW`, bit 0 of a command word (30_encoding R71). -/
def rwOf (w : Word) : Bit := w.extractLsb' 0 1

/-- `LSEL`, bit 8 of a micro-op word (30_encoding R77). -/
def lineOf (w : Word) : Line := if w.extractLsb' 8 1 = 0#1 then .scl else .sda

/-- `IMM8`, bits 7:0 of a micro-op word (30_encoding R77). -/
def immOf (w : Word) : Byte := w.extractLsb' 0 8

/-- The decoder of a command word (30_encoding R72, R82). -/
def decodeCmd (w : Word) : Except DecodeError Instr :=
  if rowHits rowWrite w then .ok (.write (devAddrOf w))
  else if rowHits rowRead w then .ok (.read (devAddrOf w))
  else if w.extractLsb' 12 4 = 0#4 then .error .cmdOp
  else .error .cmdRsvd

/-- Which reserved bits of a micro-op word are wrong, the first of the named checks that fails (30_encoding R79). -/
def uopError (w : Word) : DecodeError :=
  if !wfUopCode w then .uopCode
  else if !wfUopRsvd w then .uopRsvd
  else if !wfUopLsel w then .uopLsel
  else .uopImm

/-- The decoder of a micro-op word (30_encoding R78, R82). -/
def decodeUop (w : Word) : Except DecodeError Instr :=
  if rowHits rowDelayHalf w then .ok .delayHalf
  else if rowHits rowLineHigh w then .ok (.lineHigh (lineOf w))
  else if rowHits rowLineLow w then .ok (.lineLow (lineOf w))
  else if rowHits rowLineRead w then .ok .lineRead
  else if rowHits rowStart w then .ok .start
  else if rowHits rowStop w then .ok .stop
  else if rowHits rowTxByte w then .ok (.txByte (immOf w))
  else if rowHits rowRxByte w then .ok .rxByte
  else if rowHits rowCheckAck w then .ok .checkAck
  else if rowHits rowSendAck w then .ok .sendAck
  else if rowHits rowSendNack w then .ok .sendNack
  else .error (uopError w)

/-- A word of either format: no word belongs to both, because a command word has 0 where a micro-op word has its
`CODE` (30_encoding R71, R77, R79). -/
def decode (w : Word) : Except DecodeError Instr :=
  if w.extractLsb' 12 4 = 0#4 then decodeCmd w else decodeUop w

/-- The bit `LSEL` of a line (30_encoding R77). -/
def lselBit : Line → Bit
  | .scl => 0#1
  | .sda => 1#1

/-- A command word from its fields `RSVD ++ OP ++ DEV_ADDR ++ RW` (30_encoding R71). -/
def cmdWordOf (addr : BitVec 7) (rw : Bit) : Word := (0#4 ++ 1#4 ++ addr ++ rw : BitVec (4 + 4 + 7 + 1))

/-- A micro-op word from its fields `CODE ++ RSVD ++ LSEL ++ IMM8` (30_encoding R77). -/
def uopWordOf (code : BitVec 4) (lsel : Bit) (imm : Byte) : Word := (code ++ 0#3 ++ lsel ++ imm : BitVec (4 + 3 + 1 + 8))

/-- The word of an operation (30_encoding R71, R72, R77, R78). -/
def encode : Instr → Word
  | .write a    => cmdWordOf a 0#1
  | .read a     => cmdWordOf a 1#1
  | .delayHalf  => uopWordOf 0x1#4 0#1 0#8
  | .lineHigh l => uopWordOf 0x2#4 (lselBit l) 0#8
  | .lineLow l  => uopWordOf 0x3#4 (lselBit l) 0#8
  | .lineRead   => uopWordOf 0x4#4 1#1 0#8
  | .start      => uopWordOf 0x5#4 0#1 0#8
  | .stop       => uopWordOf 0x6#4 0#1 0#8
  | .txByte b   => uopWordOf 0x7#4 0#1 b
  | .rxByte     => uopWordOf 0x8#4 0#1 0#8
  | .checkAck   => uopWordOf 0x9#4 0#1 0#8
  | .sendAck    => uopWordOf 0xA#4 0#1 0#8
  | .sendNack   => uopWordOf 0xB#4 0#1 0#8

/-- The row of an operation (30_encoding R72, R78). -/
def rowOf : Instr → Row
  | .write _    => rowWrite
  | .read _     => rowRead
  | .delayHalf  => rowDelayHalf
  | .lineHigh _ => rowLineHigh
  | .lineLow _  => rowLineLow
  | .lineRead   => rowLineRead
  | .start      => rowStart
  | .stop       => rowStop
  | .txByte _   => rowTxByte
  | .rxByte     => rowRxByte
  | .checkAck   => rowCheckAck
  | .sendAck    => rowSendAck
  | .sendNack   => rowSendNack

/-- The address byte `DEV_ADDR ++ RW` put on the wire after START (30_encoding R73). -/
def addrByteOf (w : Word) : Byte := (devAddrOf w ++ rwOf w : BitVec (7 + 1))

/-- `(port << P_PIN_BITS) | pin` (30_encoding R84, 10_state R25). -/
def pinRefOf (p : Params) (n : PinName) : Nat := n.port <<< p.pinBits ||| n.pin

/-- The host-port values of a source-level call (30_encoding R84). -/
def offerOfCall (p : Params) (c : HostCall) : Offer :=
  { word := 0x0100#16 ||| (BitVec.ofNat 16 c.addr <<< 1) ||| (if c.isRead then 1#16 else 0#16)
    len := c.len, buf := c.buf, scl := pinRefOf p c.scl, sda := pinRefOf p c.sda }

/-- A call is transcribed only if it is well-formed (30_encoding R75, D28). -/
def transcribe (p : Params) (c : HostCall) : Option Offer := if c.wf p then some (offerOfCall p c) else none

/-- A micro-op as the listings write it (30_encoding R83); a command's operands are not in its word. -/
def listing : Instr → String
  | .write a        => "write " ++ toString a.toNat
  | .read a         => "read " ++ toString a.toNat
  | .delayHalf      => "delay_half"
  | .lineHigh .scl  => "line_high scl"
  | .lineHigh .sda  => "line_high sda"
  | .lineLow .scl   => "line_low scl"
  | .lineLow .sda   => "line_low sda"
  | .lineRead       => "line_read sda"
  | .start          => "start"
  | .stop           => "stop"
  | .txByte b       => "tx_byte " ++ toString b.toNat
  | .rxByte         => "rx_byte"
  | .checkAck       => "check_ack"
  | .sendAck        => "send_ack"
  | .sendNack       => "send_nack"

/-- A pin reference as the listings write it, `P<port>.<pin>` (30_encoding R83). -/
def pinText (n : PinName) : String := "P" ++ toString n.port ++ "." ++ toString n.pin

/-- A source-level call as the listings write it (30_encoding R83). -/
def callText (c : HostCall) : String :=
  (if c.isRead then "read " else "write ") ++ toString c.addr ++ ", " ++ toString c.buf ++ ", " ++ toString c.len ++
    ", " ++ pinText c.scl ++ ", " ++ pinText c.sda

/-- The host's question: the operation the decoder reads from the bits `w` (16 bits, one word; 30_encoding R70). -/
def decodeTableWord (nbits w : Nat) : Option Instr :=
  match decode (BitVec.ofNat 16 (w % 2 ^ nbits)) with
  | .ok i => some i
  | .error _ => none

end Sys2Proof
end

