-- ==== Sys2Proof/Machine/State.lean ====
section
/-! DEFINITION. The state of the machine as plain data (10_state), the reasons it can stop (60_exceptions R194), and
the state right after reset (10_state R40). -/

namespace Sys2Proof.Machine

/-- The five transaction states (10_state R27). -/
inductive Phase where
  | idle
  | start
  | address
  | data
  | stop
  deriving DecidableEq, Repr

/-- A command's result (44_transactions R164). -/
inductive Result where
  | success
  | ackFailure
  deriving DecidableEq, Repr

/-- The events of a trace (00_scope R8). -/
inductive Event where
  /-- `H(r)`. -/
  | high (r : Nat)
  /-- `L(r)`. -/
  | low (r : Nat)
  /-- `S(r)=v`. -/
  | sample (r : Nat) (v : Bit)
  /-- `D`. -/
  | delay
  /-- `MR(a)=v`. -/
  | memRead (a : Nat) (v : Byte)
  /-- `MW(a)=v`. -/
  | memWrite (a : Nat) (v : Byte)
  /-- `END(res)`. -/
  | done (res : Result)
  deriving DecidableEq, Repr

/-- What the sequencer does next while a command runs. The spec's pseudocode (44_transactions R161, R162, R164) makes
the buffer accesses and `Complete` steps of their own; the model's own control state says that one is due (log 8). -/
inductive Due where
  /-- The action of `UOP` at `UPOS`. -/
  | uop
  /-- `UOP` has ended: the sequencer chooses what follows (44_transactions R163). -/
  | ended
  /-- WRITE: the read of the next payload byte (44_transactions R161). -/
  | memRead
  /-- READ: the write of the byte received (44_transactions R162). -/
  | memWrite
  /-- `Complete(result)` (44_transactions R164). -/
  | complete
  deriving DecidableEq, Repr

/-- The output ports, as the last step drove them (10_state R34). -/
structure Outputs where
  /-- `gpio_op` (30_encoding R80). -/
  gpioOp   : BitVec 2
  /-- `gpio_ref`. -/
  gpioRef  : Nat
  /-- `tmr_reset`. -/
  tmrReset : Bit
  /-- `mem_op` (30_encoding R81). -/
  memOp    : BitVec 2
  /-- `mem_addr`. -/
  memAddr  : Nat
  /-- `mem_wdata`. -/
  memWdata : Byte
  deriving DecidableEq, Repr

/-- Why the machine stops with an error. -/
inductive Fault where
  /-- The sequencer meets a reserved micro-op word or an unused `PHASE` value (60_exceptions R194, 30_encoding R79).
  Raised by `fetch` and `sequence`. Safe: no run of the block reaches such a state. -/
  | reservedUop
  /-- `UPOS` is not a position inside the expansion of `UOP`, which 10_state R29 excludes.
  Raised by the meanings of the compound micro-ops. Safe: no run of the block reaches such a state (log 16). -/
  | badPosition
  /-- A micro-op ended after which no rule of 44_transactions continues in this phase (R163).
  Raised by `sequence`. Safe: no run of the block reaches such a state (log 16). -/
  | noContinuation
  /-- A buffer access outside the `2^P_ADDR_WIDTH` bytes of buffer memory, which 20_memory R52 excludes.
  Raised by the buffer accesses. Safe: no run of the block reaches such a state (log 16). -/
  | noSuchAddress
  deriving DecidableEq, Repr

/-- What the model gives no meaning to. -/
inductive Refusal where
  /-- An arm of `exec` without a meaning. No arm answers it. Safe. -/
  | notModelled (mnemonic : String)
  /-- `refuse IllegalCommand`: an offered command fails a check of 30_encoding R75 (R76, 44_transactions R160).
  Raised by `fetch` for a reserved word and by the meanings of WRITE and READ for inadmissible operands. Safe. -/
  | illegalCommand
  deriving DecidableEq, Repr

/-- The state: the block's registers, its output ports, the state of the environment, and the model's own fields. -/
structure State where
  /-- The parameters of 00_scope R6. -/
  par     : Params
  /-- `CMD` (10_state R22). -/
  cmd     : Word
  /-- `LEN` (R23). -/
  len     : Nat
  /-- `BUF` (R24). -/
  buf     : Nat
  /-- `SCL_REF` (R25). -/
  sclRef  : Nat
  /-- `SDA_REF` (R25). -/
  sdaRef  : Nat
  /-- `STATUS` (R26). -/
  status  : BitVec 8
  /-- `PHASE` (R27). -/
  phase   : BitVec 3
  /-- `IDX` (R28). -/
  idx     : Nat
  /-- `UOP`, the code of the micro-op being performed (R29). -/
  uop     : BitVec 4
  /-- Bits 11:0 of that micro-op's word: `RSVD`, `LSEL`, `IMM8` (30_encoding R77; log 8). -/
  uopArg  : BitVec 12
  /-- `UPOS` (R29). -/
  upos    : Nat
  /-- `SR` (R30). -/
  sr      : Byte
  /-- `BITCNT` (R30). -/
  bitcnt  : BitVec 4
  /-- `ACKBIT` (R31). -/
  ackbit  : Bit
  /-- `DLY_WAIT` (R32). -/
  dlyWait : Bit
  /-- What the sequencer does next (log 8). -/
  due     : Due
  /-- The result of the pending `Complete` (44_transactions R164; log 8). -/
  result  : Result
  /-- The output ports (R34). -/
  out     : Outputs
  /-- `DRV` (R35): the pin references driven low, strictly rising; every other one is released. -/
  drvLow  : List Nat
  /-- `TCNT` (R37). -/
  tcnt    : Nat
  /-- `BUFMEM` (R38): the bytes that differ from what an unlisted address reads as, by strictly rising address. -/
  mem     : List Host.Cell
  /-- The MODEL's own: what the environment does in the coming steps; past its end, `Config.envInput` (log 5). -/
  env     : List Inputs
  /-- The MODEL's own: the number of the step, the argument of `Config.envInput` (log 5). -/
  clock   : Nat
  /-- The MODEL's own: the events emitted so far, oldest first (00_scope R9; log 17). -/
  trace   : List Event
  deriving DecidableEq, Repr

/-- No action on any output port (10_state R40): `gpio_op`, `mem_op` NONE, `tmr_reset` 0. The other three are
DESIGN CHOICE 0 (log 2). -/
def outputsAtReset : Outputs :=
  { gpioOp := 0, gpioRef := 0, tmrReset := 0, memOp := 0, memAddr := 0, memWdata := 0 }

/-- The machine right after reset (10_state R40). `STATUS`, `PHASE`, `DLY_WAIT` and the output actions are the spec's;
every other value is DESIGN CHOICE: the parameters (log 1), the registers R40 leaves unspecified (log 2),
`DRV` and `TCNT` (log 3), buffer memory (log 4), the model's own fields (logs 5 and 17). -/
def State.reset : State :=
  { par := Params.example, cmd := 0, len := 0, buf := 0, sclRef := 0, sdaRef := 0, status := 0x00, phase := 0,
    idx := 0, uop := 0, uopArg := 0, upos := 0, sr := 0, bitcnt := 0, ackbit := 0, dlyWait := 0, due := .uop,
    result := .success, out := outputsAtReset, drvLow := [], tcnt := 0, mem := [], env := [], clock := 0, trace := [] }

/-- The outcomes of this machine. -/
abbrev Answer := Host.Outcome State Fault Refusal

end Sys2Proof.Machine
end

