-- ==== Sys2Proof/Machine/Operands.lean ====
section
/-! DEFINITION. Operands: the inputs of this step, the fields of `CMD`, the pin a line stands for, the micro-op word,
the effective address of a payload byte. -/

namespace Sys2Proof.Machine

/-- What the environment does in this step: the first listed inputs, or the free value (log 5). -/
def State.now (s : State) : Inputs :=
  match s.env with
  | [] => Config.envInput s.clock
  | i :: _ => i

/-- A `width`-bit port carries the low `width` bits (10_state R34; log 11). -/
def onPort (width v : Nat) : Nat := v % 2 ^ width

/-- The operands on the host port with a given command word (10_state R34, 30_encoding R74). -/
def offerNow (w : Word) (s : State) : Offer :=
  { word := w
    len := onPort s.par.lenWidth s.now.cmdLen
    buf := onPort s.par.addrWidth s.now.cmdBuf
    scl := onPort s.par.pinWidth s.now.cmdScl
    sda := onPort s.par.pinWidth s.now.cmdSda }

/-- The pin reference a line stands for: `c` or `d` (00_scope R7, 40_delay_and_lines R92). -/
def State.lineRef (s : State) : Line → Nat
  | .scl => s.sclRef
  | .sda => s.sdaRef

/-- The micro-op word being performed: `UOP` with the operand bits below it (10_state R29, 30_encoding R77). -/
def State.uopWord (s : State) : Word := (s.uop ++ s.uopArg : BitVec (4 + 12))

/-- `ADDRBYTE` of the current command (30_encoding R73). -/
def State.addrByte (s : State) : Byte := addrByteOf s.cmd

/-- `RW` of the current command: 0 WRITE, 1 READ (10_state R22). -/
def State.rw (s : State) : Bit := rwOf s.cmd

/-- The address of payload byte `IDX`: `BUF + IDX`, which does not wrap (20_memory R52). -/
def State.byteAddr (s : State) : Nat := s.buf + s.idx

/-- The codes of the phases (10_state R27). -/
def phaseCode : Phase → BitVec 3
  | .idle => 0
  | .start => 1
  | .address => 2
  | .data => 3
  | .stop => 4

/-- The phase of a code; 5 to 7 are unused (10_state R27, U13). -/
def phaseOf (p : BitVec 3) : Option Phase :=
  if p = 0#3 then some .idle
  else if p = 1#3 then some .start
  else if p = 2#3 then some .address
  else if p = 3#3 then some .data
  else if p = 4#3 then some .stop
  else none

end Sys2Proof.Machine
end

