-- ==== Sys2Proof/Machine/Flags.lean ====
section
/-! DEFINITION. The two one-bit results (10_state R33) and the fields of `STATUS` (R26). -/

namespace Sys2Proof.Machine

/-- `STATUS` from its fields; bits 7:3 read as 0 (10_state R26). -/
def statusOf (busy done ackfail : Bit) : BitVec 8 := (0#5 ++ ackfail ++ done ++ busy : BitVec (5 + 1 + 1 + 1))

/-- `STATUS.BUSY`. -/
def State.busy (s : State) : Bit := s.status.extractLsb' 0 1

/-- `STATUS.DONE`. -/
def State.done (s : State) : Bit := s.status.extractLsb' 1 1

/-- `STATUS.ACKFAIL`. -/
def State.ackfail (s : State) : Bit := s.status.extractLsb' 2 1

/-- `STATUS` at accept (44_transactions R160). -/
def statusBusy : BitVec 8 := statusOf 1 0 0

/-- `STATUS` after `Complete(res)` (44_transactions R164). -/
def statusDone : Result → BitVec 8
  | .success => statusOf 0 1 0
  | .ackFailure => statusOf 0 1 1

/-- `cmd_ready = NOT STATUS.BUSY AND NOT rst` (10_state R34). -/
def State.cmdReady (s : State) : Bool := s.busy == 0#1 && !s.now.rst

/-- Whether the last CHECK_ACK sampled NACK: a sample of 1 (43_ack R143). -/
def State.nacked (s : State) : Bool := s.ackbit == 1#1

end Sys2Proof.Machine
end

