-- ==== Sys2Proof/Machine/Ops.lean ====
section
/-! DEFINITION. The named operations the meanings are made of: buffer memory, pin drive states, output ports, line
actions, the half-period delay, positions, command accept, the abort, `Complete`, reset, and the environment's part of
a step. -/

namespace Sys2Proof.Machine

/-! ### Buffer memory (10_state R38, 20_memory R51) -/

/-- What a byte nothing has written reads as. DESIGN CHOICE 0x00 (log 4). -/
def unlistedByte : Byte := 0#8

/-- The byte of buffer memory at an address. -/
def readByte : List Host.Cell → Nat → Byte
  | [], _ => unlistedByte
  | (k, v) :: r, a => if k = a then v else readByte r a

/-- Buffer memory with one byte written, in canonical form: rising addresses, no entry equal to `unlistedByte`. -/
def writeByte : List Host.Cell → Nat → Byte → List Host.Cell
  | [], a, v => if v = unlistedByte then [] else [(a, v)]
  | (k, u) :: r, a, v =>
    if a < k then (if v = unlistedByte then (k, u) :: r else (a, v) :: (k, u) :: r)
    else if a = k then (if v = unlistedByte then r else (a, v) :: r)
    else (k, u) :: writeByte r a v

/-- The cells rise strictly from `lo` and none holds `unlistedByte`. -/
def Memory.wfFrom : Nat → List Host.Cell → Bool
  | _, [] => true
  | lo, (a, v) :: r => decide (lo ≤ a) && v != unlistedByte && Memory.wfFrom (a + 1) r

/-- The canonical form of buffer memory. -/
def Memory.wf (m : List Host.Cell) : Bool := Memory.wfFrom 0 m

/-- Every listed address lies inside the address space of `P_ADDR_WIDTH` bits (20_memory R51). -/
def Memory.inSpace (p : Params) (m : List Host.Cell) : Bool := m.all fun c => decide (c.1 < 2 ^ p.addrWidth)

/-! ### Pin drive states (10_state R35) -/

/-- Whether a pin is driven low. -/
def drivenLow (l : List Nat) (r : Nat) : Bool := l.contains r

/-- `DRV[r]`. -/
def State.drv (s : State) (r : Nat) : Drive := if drivenLow s.drvLow r then .low else .rel

/-- The pins driven low with `r` among them. -/
def pinInsert (r : Nat) : List Nat → List Nat
  | [] => [r]
  | k :: l => if r < k then r :: k :: l else if r = k then k :: l else k :: pinInsert r l

/-- The pins driven low without `r`. -/
def pinErase (r : Nat) (l : List Nat) : List Nat := l.filter fun k => k != r

/-- The references rise strictly from `lo`. -/
def Pins.wfFrom : Nat → List Nat → Bool
  | _, [] => true
  | lo, k :: l => decide (lo ≤ k) && Pins.wfFrom (k + 1) l

/-- The canonical form of the pins driven low. -/
def Pins.wf (l : List Nat) : Bool := Pins.wfFrom 0 l

/-- `DRV` after one action on pin `r`. -/
def setDrive (r : Nat) (d : Drive) (l : List Nat) : List Nat :=
  match d with
  | .rel => pinErase r l
  | .low => pinInsert r l

/-! ### Output ports (10_state R34, 30_encoding R80, R81) -/

/-- No action on any port; the reference, address and data outputs hold (log 12). -/
def Outputs.none (o : Outputs) : Outputs := { o with gpioOp := 0b00, tmrReset := 0, memOp := 0b00 }

/-- One line action on `gpio_op`, `gpio_ref`. -/
def Outputs.gpio (o : Outputs) (op : BitVec 2) (r : Nat) : Outputs := { o.none with gpioOp := op, gpioRef := r }

/-- One timer reset on `tmr_reset`. -/
def Outputs.timer (o : Outputs) : Outputs := { o.none with tmrReset := 1 }

/-- One buffer read on `mem_op`, `mem_addr`. -/
def Outputs.fetchByte (o : Outputs) (a : Nat) : Outputs := { o.none with memOp := 0b01, memAddr := a }

/-- One buffer write on `mem_op`, `mem_addr`, `mem_wdata`. -/
def Outputs.storeByte (o : Outputs) (a : Nat) (v : Byte) : Outputs :=
  { o.none with memOp := 0b10, memAddr := a, memWdata := v }

/-- A step of the core with no action on any port. -/
def State.noAction (s : State) : State := { s with out := s.out.none }

/-! ### Line actions (00_scope R8, 40_delay_and_lines R92 to R94) -/

/-- `LineHigh(r)`: `gpio_op` SET_HIGH, `DRV[r] <- REL`, event `H(r)` (R92). -/
def setLineHigh (l : Line) (s : State) : State :=
  { s with
    out := s.out.gpio 0b01 (s.lineRef l)
    drvLow := setDrive (s.lineRef l) .rel s.drvLow
    trace := s.trace ++ [.high (s.lineRef l)] }

/-- `LineLow(r)`: `gpio_op` SET_LOW, `DRV[r] <- LOW`, event `L(r)` (R93). -/
def setLineLow (l : Line) (s : State) : State :=
  { s with
    out := s.out.gpio 0b10 (s.lineRef l)
    drvLow := setDrive (s.lineRef l) .low s.drvLow
    trace := s.trace ++ [.low (s.lineRef l)] }

/-- The level a read of SDA returns: 0 while the block drives it low, else the bus agent's draw (10_state R36). -/
def State.sdaRead (s : State) : Bit := if drivenLow s.drvLow s.sdaRef then 0#1 else s.now.sdaLevel

/-- `LineRead(d)`: `gpio_op` READ, `DRV` unchanged, event `S(d)=v` (R94); the value read is `s.sdaRead`. -/
def readSda (s : State) : State :=
  { s with
    out := s.out.gpio 0b11 s.sdaRef
    trace := s.trace ++ [.sample s.sdaRef s.sdaRead] }

/-! ### Positions in an expansion (10_state R29) -/

/-- On to the next action of `UOP`. -/
def State.nextPos (s : State) : State := { s with upos := s.upos + 1 }

/-- `UOP` has ended; the sequencer chooses what follows. -/
def State.endUop (s : State) : State := { s with upos := 0, due := .ended }

/-- The sequencer begins a micro-op: its word into `UOP`, at its first action. -/
def State.issue (i : Instr) (s : State) : State :=
  { s with uop := (encode i).extractLsb' 12 4, uopArg := (encode i).extractLsb' 0 12, upos := 0, due := .uop }

/-! ### The half-period delay (40_delay_and_lines R90) -/

/-- The beginning of a delay: `tmr_reset` for one action, `TCNT <- 0`, event `D`, `DLY_WAIT <- 1`. -/
def beginDelay (s : State) : State :=
  { s with tcnt := 0, dlyWait := 1, out := s.out.timer, trace := s.trace ++ [.delay] }

/-- The delay's wait has ended: `DLY_WAIT <- 0`. -/
def endDelay (s : State) : State := { s.noAction with dlyWait := 0 }

/-- Whether the wait condition `zext(TCNT) >= P_HALF_TICKS` holds. -/
def State.delayOver (s : State) : Bool := decide (s.par.halfTicks ≤ s.tcnt)

/-- One step of a delay, then `fin` once it has ended: begin it, or poll `TCNT` (R90; the poll has no event). -/
def delayStep (fin : State → State) (s : State) : State :=
  if s.dlyWait = 0#1 then beginDelay s
  else if s.delayOver then fin (endDelay s)
  else s.noAction

/-! ### Command accept (44_transactions R160) -/

/-- Whether the offered command passes every check of 30_encoding R75. -/
def admitted (p : Params) (o : Offer) : Bool := o.wf p

/-- The command registers latched, `STATUS` busy, `PHASE` START, START the first micro-op (R160, R161, R162). -/
def latchCommand (o : Offer) (s : State) : State :=
  { s.noAction.issue .start with
    cmd := o.word, len := o.len, buf := o.buf, sclRef := o.scl, sdaRef := o.sda
    status := statusBusy, phase := phaseCode .start }

/-- The host offers a command with word `w` (R160): it holds unless `cmd_ready`, is refused unless admitted, and is
accepted otherwise. -/
def acceptCommand (w : Word) (s : State) : Answer :=
  if s.cmdReady then
    if admitted s.par (offerNow w s) then .next (latchCommand (offerNow w s) s) else .refused .illegalCommand
  else .next s.noAction

/-! ### The end of a command (60_exceptions R192, 44_transactions R164) -/

/-- `PHASE <- STOP`; STOP; then `Complete(res)`. With `ackFailure` it is the abort, the block's equivalent of taking an
exception: nothing is saved (60_exceptions R192, R193). -/
def enterStop (res : Result) (s : State) : State :=
  { s.issue .stop with phase := phaseCode .stop, result := res }

/-- `Complete(res)`: `STATUS`, `PHASE <- IDLE`, event `END(res)` (44_transactions R164). -/
def completeCommand (res : Result) (s : State) : State :=
  { s.noAction with status := statusDone res, phase := phaseCode .idle, trace := s.trace ++ [.done res] }

/-! ### Reset (70_reset_and_hazards R210, R211) -/

/-- One step with `rst = 1`: the block's registers and outputs take their reset values; `DRV`, `TCNT`, buffer memory,
the parameters and the model's own fields stay. -/
def resetBlock (s : State) : State :=
  { State.reset with
    par := s.par, drvLow := s.drvLow, tcnt := s.tcnt, mem := s.mem, env := s.env, clock := s.clock, trace := s.trace }

/-! ### The environment's part of a step (00_scope R10) -/

/-- `TCNT` after the step's ticks; past its greatest value it is what the environment says (10_state R37, U17). -/
def ticked (p : Params) (i : Inputs) (t : Nat) : Nat :=
  if t + i.ticks < 2 ^ p.timerWidth then t + i.ticks else i.wrapTo % 2 ^ p.timerWidth

/-- Whether another agent may write a buffer address now: not `BUF .. BUF + LEN - 1` during a command
(20_memory R61). -/
def hostMayWrite (s : State) (a : Nat) : Bool :=
  s.busy == 0#1 || decide (a < s.buf) || decide (s.buf + s.len ≤ a)

/-- Whether another agent may act on a pin now: not `SCL_REF` or `SDA_REF` during a command (20_memory R62). -/
def othersMayDrive (s : State) (r : Nat) : Bool := s.busy == 0#1 || (r != s.sclRef && r != s.sdaRef)

/-- One write of another agent to buffer memory. -/
def hostWrite (s : State) (m : List Host.Cell) (c : Host.Cell) : List Host.Cell :=
  if hostMayWrite s (onPort s.par.addrWidth c.1) then writeByte m (onPort s.par.addrWidth c.1) c.2 else m

/-- One action of another agent on a pin. -/
def otherPinAct (s : State) (l : List Nat) (c : Nat × Drive) : List Nat :=
  if othersMayDrive s (onPort s.par.pinWidth c.1) then setDrive (onPort s.par.pinWidth c.1) c.2 l else l

/-- The environment's part of a step: the timer's ticks, the other agents' writes and pin actions, and on to the next
step's inputs. -/
def envStep (s : State) : State :=
  { s with
    tcnt := ticked s.par s.now s.tcnt
    mem := s.now.hostWrites.foldl (hostWrite s) s.mem
    drvLow := s.now.pinActs.foldl (otherPinAct s) s.drvLow
    env := s.env.tail
    clock := s.clock + 1 }

/-- The core's answer followed by the environment's part of the step. -/
def thenEnv : Answer → Answer
  | .next s => .next (envStep s)
  | .fault f => .fault f
  | .refused r => .refused r

end Sys2Proof.Machine
end

