-- ==== Sys2Proof/Machine/Commands.lean ====
section
/-! DEFINITION. The two commands (44_transactions R160 to R169): their acceptance, and the program each then runs, as the
sequencer's choices after a micro-op, its buffer accesses and its completion. -/

namespace Sys2Proof.Machine

/-- WRITE offered by the host (R160). Once accepted, the sequencer below performs the steps of R161. -/
def execWrite (addr : BitVec 7) (s : State) : Answer := acceptCommand (encode (.write addr)) s

/-- READ offered by the host (R160). Once accepted, the sequencer below performs the steps of R162. -/
def execRead (addr : BitVec 7) (s : State) : Answer := acceptCommand (encode (.read addr)) s

/-- `PHASE <- ADDRESS; TX_BYTE(ADDRBYTE)` (R161, R162). -/
def enterAddress (s : State) : State := { s.issue (.txByte s.addrByte) with phase := phaseCode .address }

/-- The loop test `while IDX < LEN` with `IDX` already written (R161, R162): `PHASE <- DATA` and the first thing of the
next payload byte, or STOP with success. -/
def payloadLoop (idx : Nat) (s : State) : State :=
  let t := { s with idx := idx }
  if idx < s.len then
    if s.rw = 0#1 then { t with phase := phaseCode .data, due := .memRead }
    else { t.issue .rxByte with phase := phaseCode .data }
  else enterStop .success t

/-- `IDX <- IDX + 1`, in `P_LEN_WIDTH` bits (10_state R28, 00_scope R7). -/
def nextIdx (s : State) : Nat := (s.idx + 1) % 2 ^ s.par.lenWidth

/-- The branch after CHECK_ACK: on NACK the abort (60_exceptions R192), else the payload loop at `idx`. -/
def afterCheck (idx : Nat) (s : State) : State :=
  if s.nacked then enterStop .ackFailure s else payloadLoop idx s

/-- The sequencer after a micro-op has ended, with no action on any port (R161, R162, R163); a reserved word
in `UOP` is `fault ReservedUop` (60_exceptions R194). -/
def sequence (s : State) : Answer :=
  let t := s.noAction
  match phaseOf s.phase, decodeUop s.uopWord with
  | some .start, .ok .start => .next (enterAddress t)
  | some .address, .ok (.txByte _) => .next (t.issue .checkAck)
  | some .address, .ok .checkAck => .next (afterCheck 0 t)
  | some .data, .ok (.txByte _) => .next (t.issue .checkAck)
  | some .data, .ok .checkAck => .next (afterCheck (nextIdx t) t)
  | some .data, .ok .rxByte => .next { t with due := .memWrite }
  | some .data, .ok .sendAck => .next (payloadLoop (nextIdx t) t)
  | some .data, .ok .sendNack => .next (payloadLoop (nextIdx t) t)
  | some .stop, .ok .stop => .next { t with due := .complete }
  | _, .error _ => .fault .reservedUop
  | _, _ => .fault .noContinuation

/-- WRITE: `b <- MemRead(BUF + IDX, 1); TX_BYTE(b)` (R161): one read, then TX_BYTE is due. -/
def readPayload (s : State) : Answer :=
  if s.byteAddr < 2 ^ s.par.addrWidth then
    .next { s.issue (.txByte (readByte s.mem s.byteAddr)) with
      out := s.out.fetchByte s.byteAddr
      trace := s.trace ++ [.memRead s.byteAddr (readByte s.mem s.byteAddr)] }
  else .fault .noSuchAddress

/-- READ: `MemWrite(BUF + IDX, 1, v)`, then SEND_NACK for the last byte and SEND_ACK for every other one (R162). -/
def writePayload (s : State) : Answer :=
  if s.byteAddr < 2 ^ s.par.addrWidth then
    .next { s.issue (if s.idx + 1 = s.len then .sendNack else .sendAck) with
      mem := writeByte s.mem s.byteAddr s.sr
      out := s.out.storeByte s.byteAddr s.sr
      trace := s.trace ++ [.memWrite s.byteAddr s.sr] }
  else .fault .noSuchAddress

/-- What a step of the machine is about. -/
inductive Fetched where
  /-- `rst = 1`. -/
  | reset
  /-- IDLE and nothing to accept. -/
  | wait
  /-- An operation: the command offered, or the micro-op at `UOP`. -/
  | run (i : Instr)
  /-- The sequencer's choice after a micro-op. -/
  | choose
  /-- The read of a payload byte. -/
  | memRead
  /-- The write of a received byte. -/
  | memWrite
  /-- `Complete`. -/
  | complete
  /-- A state no run reaches. -/
  | broken (f : Fault)
  /-- A reserved command word. -/
  | illegal
  deriving DecidableEq, Repr

/-- The priority of 60_exceptions R196: reset; in IDLE an offered command (44_transactions R160, 30_encoding R76, R82);
otherwise the next action of the current operation (30_encoding R79). -/
def fetch (s : State) : Fetched :=
  if s.now.rst then .reset
  else
    match phaseOf s.phase with
    | none => .broken .reservedUop
    | some .idle =>
      if s.now.cmdValid && s.cmdReady then
        match decodeCmd s.now.cmdWord with
        | .ok i => .run i
        | .error _ => .illegal
      else .wait
    | some _ =>
      match s.due with
      | .uop =>
        match decodeUop s.uopWord with
        | .ok i => .run i
        | .error _ => .broken .reservedUop
      | .ended => .choose
      | .memRead => .memRead
      | .memWrite => .memWrite
      | .complete => .complete

/-- The phase in which a micro-op is performed (10_state R27); a primitive, which no phase performs on its own, is put
in START (log 10). -/
def phaseFor : Instr → Phase
  | .write _ => .idle
  | .read _ => .idle
  | .delayHalf => .start
  | .lineHigh _ => .start
  | .lineLow _ => .start
  | .lineRead => .start
  | .start => .start
  | .stop => .stop
  | .txByte _ => .address
  | .rxByte => .data
  | .checkAck => .address
  | .sendAck => .data
  | .sendNack => .data

/-- The inputs of this step with `rst` low and, for a command word, that word offered with admissible operands:
`LEN` 0, `BUF` 0, pins 0 and 1 (log 9). -/
def inputsOffering (w : Word) (i : Inputs) : Inputs :=
  if w.extractLsb' 12 4 = 0#4 then
    { i with rst := false, cmdValid := true, cmdWord := w, cmdLen := 0, cmdBuf := 0, cmdScl := 0, cmdSda := 1 }
  else { i with rst := false }

/-- The state with word `w` where the next step looks for its operation: a command word on the host port of an idle
block, any other word in `UOP` at its first action (logs 9 and 10). DESIGN CHOICE (log 20): where the state lists no
inputs, the rest of this step's are `Inputs.quiet`, not the free `Config.envInput`, so that the step can be evaluated. -/
def placeWord (w : Word) (s : State) : State :=
  let t := { s with env := inputsOffering w (s.env.headD Inputs.quiet) :: s.env.tail }
  if w.extractLsb' 12 4 = 0#4 then { t with phase := phaseCode .idle, status := s.status &&& 0xFE#8 }
  else
    { t with
      phase := phaseCode (match decodeUop w with | .ok i => phaseFor i | .error _ => .start)
      uop := w.extractLsb' 12 4, uopArg := w.extractLsb' 0 12, upos := 0, dlyWait := 0, due := .uop }

end Sys2Proof.Machine
end

