-- ==== Sys2Proof/Machine/AckDetector.lean ====
section
/-! DEFINITION. ack_detector: the ninth clock pulse of a byte, one action of the step list at a time
(43_ack R140 to R142). -/

namespace Sys2Proof.Machine

/-- The sample of CHECK_ACK: `a <- LineRead(d); ACKBIT <- a` (R140). -/
def sampleAck (s : State) : State := { readSda s with ackbit := s.sdaRead }

/-- CHECK_ACK (R140): `H(d) H(c) D S(d)=a L(c) D`. -/
def execCheckAck (s : State) : Answer :=
  match s.upos with
  | 0 => .next (setLineHigh .sda s).nextPos
  | 1 => .next (setLineHigh .scl s).nextPos
  | 2 => .next (delayStep State.nextPos s)
  | 3 => .next (sampleAck s).nextPos
  | 4 => .next (setLineLow .scl s).nextPos
  | 5 => .next (delayStep State.endUop s)
  | _ => .fault .badPosition

/-- SEND_ACK (R141): `L(d) H(c) D L(c) H(d) D`. -/
def execSendAck (s : State) : Answer :=
  match s.upos with
  | 0 => .next (setLineLow .sda s).nextPos
  | 1 => .next (setLineHigh .scl s).nextPos
  | 2 => .next (delayStep State.nextPos s)
  | 3 => .next (setLineLow .scl s).nextPos
  | 4 => .next (setLineHigh .sda s).nextPos
  | 5 => .next (delayStep State.endUop s)
  | _ => .fault .badPosition

/-- SEND_NACK (R142): `H(d) H(c) D L(c) D`. -/
def execSendNack (s : State) : Answer :=
  match s.upos with
  | 0 => .next (setLineHigh .sda s).nextPos
  | 1 => .next (setLineHigh .scl s).nextPos
  | 2 => .next (delayStep State.nextPos s)
  | 3 => .next (setLineLow .scl s).nextPos
  | 4 => .next (delayStep State.endUop s)
  | _ => .fault .badPosition

end Sys2Proof.Machine
end

