-- ==== Sys2Proof/Machine/ByteShift.lean ====
section
/-! DEFINITION. byte_shift_engine: TX_BYTE and RX_BYTE, one action of the step list at a time, most-significant bit
first (42_byte_shift R120 to R122). The register writes that have no event belong to the action beside them: the loads
to the first action, the shift of RX_BYTE to its sample, the end of a bit to the end of its second delay (log 7). -/

namespace Sys2Proof.Machine

/-- `SR <- b; BITCNT <- 8` (R120). -/
def loadTx (b : Byte) (s : State) : State := { s with sr := b, bitcnt := 8#4 }

/-- `BITCNT <- 8` (R121). -/
def loadRx (s : State) : State := { s with bitcnt := 8#4 }

/-- SDA set to `SR[7]` (R120). -/
def driveBit (s : State) : State := if s.sr.extractLsb' 7 1 = 1#1 then setLineHigh .sda s else setLineLow .sda s

/-- `SR <- SR[6:0] ++ v` (R120 with 0, R121 with the bit sampled). -/
def shiftIn (v : Bit) (s : State) : State := { s with sr := (s.sr.extractLsb' 0 7 ++ v : BitVec (7 + 1)) }

/-- `BITCNT <- BITCNT - 1`, and the test `BITCNT != 0` of the loop (R120, R121). -/
def endBit (s : State) : State :=
  let t := { s with bitcnt := s.bitcnt - 1#4 }
  if t.bitcnt = 0#4 then t.endUop else t.nextPos

/-- The end of a transmitted bit: shift to the next bit, then the loop test (R120). -/
def endTxBit (s : State) : State := endBit (shiftIn 0#1 s)

/-- The sample of a received bit (R121). -/
def sampleBit (s : State) : State := shiftIn s.sdaRead (readSda s)

/-- TX_BYTE (R120), 40 actions: eight times `X(d) H(c) D L(c) D`. -/
def execTxByte (imm : Byte) (s : State) : Answer :=
  if 40 ≤ s.upos then .fault .badPosition
  else if s.upos = 0 then .next (driveBit (loadTx imm s)).nextPos
  else
    match s.upos % 5 with
    | 0 => .next (driveBit s).nextPos
    | 1 => .next (setLineHigh .scl s).nextPos
    | 2 => .next (delayStep State.nextPos s)
    | 3 => .next (setLineLow .scl s).nextPos
    | _ => .next (delayStep endTxBit s)

/-- RX_BYTE (R121), 41 actions: `H(d)`, then eight times `H(c) D S(d)=v L(c) D`. -/
def execRxByte (s : State) : Answer :=
  if 41 ≤ s.upos then .fault .badPosition
  else if s.upos = 0 then .next (setLineHigh .sda (loadRx s)).nextPos
  else
    match s.upos % 5 with
    | 1 => .next (setLineHigh .scl s).nextPos
    | 2 => .next (delayStep State.nextPos s)
    | 3 => .next (sampleBit s).nextPos
    | 4 => .next (setLineLow .scl s).nextPos
    | _ => .next (delayStep endBit s)

end Sys2Proof.Machine
end

