-- ==== Sys2Proof/Machine/DelayAndLines.lean ====
section
/-! DEFINITION. The top block's primitives as micro-ops: DELAY_HALF, LINE_HIGH, LINE_LOW, LINE_READ
(40_delay_and_lines R90 to R94). Each is one action; it ends where the action ends. -/

namespace Sys2Proof.Machine

/-- DELAY_HALF (R90): begin the delay, or poll it, until it is over. -/
def execDelayHalf (s : State) : Answer := .next (delayStep State.endUop s)

/-- LINE_HIGH (R92): release the line. -/
def execLineHigh (line : Line) (s : State) : Answer := .next (setLineHigh line s).endUop

/-- LINE_LOW (R93): drive the line low. -/
def execLineLow (line : Line) (s : State) : Answer := .next (setLineLow line s).endUop

/-- LINE_READ (R94): sample SDA; the value read is the one of the event `S(d)=v`. -/
def execLineRead (s : State) : Answer := .next (readSda s).endUop

end Sys2Proof.Machine
end

