-- ==== Sys2Proof/Machine/StartStop.lean ====
section
/-! DEFINITION. start_stop_generator: START and STOP, one action of the step list at a time, the action at `UPOS`
(41_start_stop R110, R111; 40_delay_and_lines R96). -/

namespace Sys2Proof.Machine

/-- START (R110): `H(d) H(c) D L(d) D L(c) D`. -/
def execStart (s : State) : Answer :=
  match s.upos with
  | 0 => .next (setLineHigh .sda s).nextPos
  | 1 => .next (setLineHigh .scl s).nextPos
  | 2 => .next (delayStep State.nextPos s)
  | 3 => .next (setLineLow .sda s).nextPos
  | 4 => .next (delayStep State.nextPos s)
  | 5 => .next (setLineLow .scl s).nextPos
  | 6 => .next (delayStep State.endUop s)
  | _ => .fault .badPosition

/-- STOP (R111): `L(c) L(d) D H(c) D H(d) D`. -/
def execStop (s : State) : Answer :=
  match s.upos with
  | 0 => .next (setLineLow .scl s).nextPos
  | 1 => .next (setLineLow .sda s).nextPos
  | 2 => .next (delayStep State.nextPos s)
  | 3 => .next (setLineHigh .scl s).nextPos
  | 4 => .next (delayStep State.nextPos s)
  | 5 => .next (setLineHigh .sda s).nextPos
  | 6 => .next (delayStep State.endUop s)
  | _ => .fault .badPosition

end Sys2Proof.Machine
end

