-- ==== Sys2Proof/Machine/Dispatch.lean ====
section
/-! DEFINITION. One arm per operation of the opcode table. -/

namespace Sys2Proof.Machine

def exec (i : Instr) (s : State) : Host.Outcome State Fault Refusal :=
  match i with
  | .write addr => Sys2Proof.Machine.execWrite addr s
  | .read addr => Sys2Proof.Machine.execRead addr s
  | .delayHalf => Sys2Proof.Machine.execDelayHalf s
  | .lineHigh line => Sys2Proof.Machine.execLineHigh line s
  | .lineLow line => Sys2Proof.Machine.execLineLow line s
  | .lineRead => Sys2Proof.Machine.execLineRead s
  | .start => Sys2Proof.Machine.execStart s
  | .stop => Sys2Proof.Machine.execStop s
  | .txByte imm => Sys2Proof.Machine.execTxByte imm s
  | .rxByte => Sys2Proof.Machine.execRxByte s
  | .checkAck => Sys2Proof.Machine.execCheckAck s
  | .sendAck => Sys2Proof.Machine.execSendAck s
  | .sendNack => Sys2Proof.Machine.execSendNack s

end Sys2Proof.Machine
end

