-- ==== Sys2Proof/Machine/Step.lean ====
section
/-! DEFINITION. One step of the machine: one action, one poll or one choice of the core, then the environment's part
(20_memory R60, 40_delay_and_lines R96, 60_exceptions R196). -/

namespace Sys2Proof.Machine

/-- One step. -/
def step (s : State) : Host.Outcome State Fault Refusal :=
  match fetch s with
  | .reset => thenEnv (.next (resetBlock s))
  | .wait => thenEnv (.next s.noAction)
  | .run i => thenEnv (exec i s)
  | .choose => thenEnv (sequence s)
  | .memRead => thenEnv (readPayload s)
  | .memWrite => thenEnv (writePayload s)
  | .complete => thenEnv (.next (completeCommand s.result s))
  | .broken f => .fault f
  | .illegal => .refused .illegalCommand

/-- The state in which the next step runs the operation with the bits `w` (logs 9 and 10). -/
def State.withFetchWord (s : State) (nbits w : Nat) : State := placeWord (BitVec.ofNat 16 (w % 2 ^ nbits)) s

end Sys2Proof.Machine
end

