-- ==== Sys2Proof/Safety.lean ====
section
/-! DEFINITION. What counts as a safe run, in the terms the statements use: the traces of 00_scope R9, what two states
have in common, the invariants of the block, and the progress of a command. -/

namespace Sys2Proof.Safety

open Sys2Proof.Machine

/-! ### Traces (00_scope R9), with `c` and `d` the two pin references -/

/-- `b[k]` (00_scope R7). -/
def bitOf (b : Byte) (k : Nat) : Bit := b.extractLsb' k 1

/-- The bits of a byte in wire order, bit 7 first (42_byte_shift R122). -/
def wireBits (b : Byte) : List Bit := [7, 6, 5, 4, 3, 2, 1, 0].map (bitOf b)

/-- `X(d)`: `H(d)` for a 1 bit, `L(d)` for a 0 bit (42_byte_shift R120). -/
def bitEvent (d : Nat) (v : Bit) : Event := if v = 1#1 then .high d else .low d

/-- START (41_start_stop R110). -/
def startTrace (c d : Nat) : List Event := [.high d, .high c, .delay, .low d, .delay, .low c, .delay]

/-- STOP (41_start_stop R111). -/
def stopTrace (c d : Nat) : List Event := [.low c, .low d, .delay, .high c, .delay, .high d, .delay]

/-- TX_BYTE of `b` (42_byte_shift R120). -/
def txTrace (c d : Nat) (b : Byte) : List Event :=
  (wireBits b).flatMap fun v => [bitEvent d v, .high c, .delay, .low c, .delay]

/-- RX_BYTE returning `b` (42_byte_shift R121). -/
def rxTrace (c d : Nat) (b : Byte) : List Event :=
  .high d :: (wireBits b).flatMap fun v => [.high c, .delay, .sample d v, .low c, .delay]

/-- CHECK_ACK sampling `a` (43_ack R140). -/
def checkTrace (c d : Nat) (a : Bit) : List Event := [.high d, .high c, .delay, .sample d a, .low c, .delay]

/-- SEND_ACK (43_ack R141). -/
def sendAckTrace (c d : Nat) : List Event := [.low d, .high c, .delay, .low c, .high d, .delay]

/-- SEND_NACK (43_ack R142). -/
def sendNackTrace (c d : Nat) : List Event := [.high d, .high c, .delay, .low c, .delay]

/-- START, the address byte and its check. -/
def addressTrace (c d : Nat) (addr : Byte) (a : Bit) : List Event :=
  startTrace c d ++ txTrace c d addr ++ checkTrace c d a

/-- One payload byte of a WRITE: its read at address `x`, its transmission, its check (44_transactions R161). -/
def writeByteTrace (c d x : Nat) (v : Byte) (a : Bit) : List Event :=
  .memRead x v :: (txTrace c d v ++ checkTrace c d a)

/-- One payload byte of a READ: its reception, its write at address `x`, SEND_NACK after the last byte and SEND_ACK
after every other one (44_transactions R162). -/
def readByteTrace (c d x : Nat) (v : Byte) (last : Bool) : List Event :=
  rxTrace c d v ++ .memWrite x v :: (if last then sendNackTrace c d else sendAckTrace c d)

/-- The acknowledged payload bytes `first ..` of a WRITE, from address `x`. -/
def writePayloadTrace (c d : Nat) : Nat → List Byte → List Event
  | _, [] => []
  | x, v :: vs => writeByteTrace c d x v 0#1 ++ writePayloadTrace c d (x + 1) vs

/-- A WRITE all of whose bytes are acknowledged (44_transactions R161). -/
def writeTrace (c d x : Nat) (addr : Byte) (vs : List Byte) : List Event :=
  addressTrace c d addr 0#1 ++ writePayloadTrace c d x vs ++ stopTrace c d ++ [.done .success]

/-- A command whose address is not acknowledged (60_exceptions R192). -/
def addressFailTrace (c d : Nat) (addr : Byte) : List Event :=
  addressTrace c d addr 1#1 ++ stopTrace c d ++ [.done .ackFailure]

/-- A WRITE whose bytes `vs` are acknowledged and whose next byte `v` is not (44_transactions R169). -/
def writeFailTrace (c d x : Nat) (addr : Byte) (vs : List Byte) (v : Byte) : List Event :=
  addressTrace c d addr 0#1 ++ writePayloadTrace c d x vs ++ writeByteTrace c d (x + vs.length) v 1#1 ++
    stopTrace c d ++ [.done .ackFailure]

/-- The payload bytes of a READ, from address `x`; the last of the list is the last of the command. -/
def readPayloadTrace (c d : Nat) : Nat → List Byte → List Event
  | _, [] => []
  | x, v :: vs => readByteTrace c d x v vs.isEmpty ++ readPayloadTrace c d (x + 1) vs

/-- A READ whose address is acknowledged (44_transactions R162). -/
def readTrace (c d x : Nat) (addr : Byte) (vs : List Byte) : List Event :=
  addressTrace c d addr 0#1 ++ readPayloadTrace c d x vs ++ stopTrace c d ++ [.done .success]

/-- The number of delays of a trace. -/
def delays (t : List Event) : Nat := t.countP fun e => decide (e = .delay)

/-- The number of line actions of a trace, its reads of SDA among them (70_reset_and_hazards R219). -/
def lineActions (t : List Event) : Nat :=
  t.countP fun e =>
    match e with
    | .high _ => true
    | .low _ => true
    | .sample _ _ => true
    | .delay => false
    | .memRead _ _ => false
    | .memWrite _ _ => false
    | .done _ => false

/-- The number of reads of SDA of a trace. -/
def samples (t : List Event) : Nat :=
  t.countP fun e =>
    match e with
    | .sample _ _ => true
    | .high _ => false
    | .low _ => false
    | .delay => false
    | .memRead _ _ => false
    | .memWrite _ _ => false
    | .done _ => false

/-- The line actions of an operation, its reads of SDA among them (70_reset_and_hazards R219); a primitive is one action
(40_delay_and_lines R92 to R94). -/
def tableActions : Instr → Nat
  | .start => 4
  | .stop => 4
  | .txByte _ => 24
  | .rxByte => 25
  | .checkAck => 4
  | .sendAck => 4
  | .sendNack => 3
  | .delayHalf => 0
  | .lineHigh _ => 1
  | .lineLow _ => 1
  | .lineRead => 1
  | .write _ => 0
  | .read _ => 0

/-- The reads of SDA of an operation (70_reset_and_hazards R219). -/
def tableSamples : Instr → Nat
  | .start => 0
  | .stop => 0
  | .txByte _ => 0
  | .rxByte => 8
  | .checkAck => 1
  | .sendAck => 0
  | .sendNack => 0
  | .delayHalf => 0
  | .lineHigh _ => 0
  | .lineLow _ => 0
  | .lineRead => 1
  | .write _ => 0
  | .read _ => 0

/-- The delays of an operation (70_reset_and_hazards R219). -/
def tableDelays : Instr → Nat
  | .start => 3
  | .stop => 3
  | .txByte _ => 16
  | .rxByte => 16
  | .checkAck => 2
  | .sendAck => 2
  | .sendNack => 2
  | .delayHalf => 1
  | .lineHigh _ => 0
  | .lineLow _ => 0
  | .lineRead => 0
  | .write _ => 0
  | .read _ => 0

/-- The pins an event names are `c` and `d`, and only `d` is ever read (40_delay_and_lines R95). -/
def NamesOnly (c d : Nat) : Event → Prop
  | .high r => r = c ∨ r = d
  | .low r => r = c ∨ r = d
  | .sample r _ => r = d
  | .delay => True
  | .memRead _ _ => True
  | .memWrite _ _ => True
  | .done _ => True

/-! ### Positions in a micro-op -/

/-- The number of actions of an expansion (41_start_stop, 42_byte_shift, 43_ack); a primitive is one action. -/
def opLength : Instr → Nat
  | .start => 7
  | .stop => 7
  | .txByte _ => 40
  | .rxByte => 41
  | .checkAck => 6
  | .sendAck => 6
  | .sendNack => 5
  | .delayHalf => 1
  | .lineHigh _ => 1
  | .lineLow _ => 1
  | .lineRead => 1
  | .write _ => 0
  | .read _ => 0

/-- The operations whose expansion has more than one action. -/
def compound : Instr → Bool
  | .start => true
  | .stop => true
  | .txByte _ => true
  | .rxByte => true
  | .checkAck => true
  | .sendAck => true
  | .sendNack => true
  | .delayHalf => false
  | .lineHigh _ => false
  | .lineLow _ => false
  | .lineRead => false
  | .write _ => false
  | .read _ => false

/-- Whether action `k` of a compound micro-op is a DELAY_HALF. -/
def delayAt : Instr → Nat → Bool
  | .start, k => k == 2 || k == 4 || k == 6
  | .stop, k => k == 2 || k == 4 || k == 6
  | .txByte _, k => k % 5 == 2 || k % 5 == 4
  | .rxByte, k => k % 5 == 2 || (k % 5 == 0 && k != 0)
  | .checkAck, k => k == 2 || k == 5
  | .sendAck, k => k == 2 || k == 5
  | .sendNack, k => k == 2 || k == 4
  | .delayHalf, _ => true
  | .lineHigh _, _ => false
  | .lineLow _, _ => false
  | .lineRead, _ => false
  | .write _, _ => false
  | .read _, _ => false

/-- Whether action `k` of a compound micro-op samples SDA. -/
def sampleAt : Instr → Nat → Bool
  | .rxByte, k => k % 5 == 3
  | .checkAck, k => k == 3
  | .lineRead, _ => true
  | _, _ => false

/-- The event of action `upos` of a compound micro-op, in a state where a sample would read `v`
(41_start_stop R110, R111, 42_byte_shift R120, R121, 43_ack R140 to R142). For TX_BYTE the bit driven is bit
`7 - upos / 5` of its byte. -/
def actionEvent (c d : Nat) (i : Instr) (k : Nat) (v : Bit) : Option Event :=
  match i with
  | .start => (startTrace c d)[k]?
  | .stop => (stopTrace c d)[k]?
  | .txByte b => (txTrace c d b)[k]?
  | .rxByte => (rxTrace c d (if v = 1#1 then 0xFF#8 else 0x00#8))[k]?
  | .checkAck => (checkTrace c d v)[k]?
  | .sendAck => (sendAckTrace c d)[k]?
  | .sendNack => (sendNackTrace c d)[k]?
  | _ => none

/-- `SR` and `BITCNT` at a position of a byte's expansion (42_byte_shift R120, R121). -/
def ShiftAt (i : Instr) (s : State) : Prop :=
  match i with
  | .txByte b => s.upos = 0 ∨ (s.sr = b <<< (s.upos / 5) ∧ s.bitcnt = BitVec.ofNat 4 (8 - s.upos / 5))
  | .rxByte => s.upos = 0 ∨ s.bitcnt = BitVec.ofNat 4 (8 - (s.upos - 1) / 5)
  | _ => True

/-- `UOP` is `i`, at one of its actions or just ended. -/
def Performing (i : Instr) (s : State) : Prop :=
  s.uopWord = encode i ∧
    ((s.due = .uop ∧ s.upos < opLength i ∧ (s.dlyWait = 1#1 → delayAt i s.upos = true) ∧ ShiftAt i s) ∨
      (s.due = .ended ∧ s.upos = 0 ∧ s.dlyWait = 0#1))

/-- Whether the core does nothing but poll the timer in this step (40_delay_and_lines R90). -/
def Waiting (s : State) : Prop := s.due = .uop ∧ s.dlyWait = 1#1 ∧ s.tcnt < s.par.halfTicks

/-! ### Frames -/

/-- The parameters, the command registers, `STATUS`, `PHASE`, `IDX`, the micro-op word and the pending result are the
same, and so are the model's own inputs. -/
def SameControl (s t : State) : Prop :=
  t.par = s.par ∧ t.cmd = s.cmd ∧ t.len = s.len ∧ t.buf = s.buf ∧ t.sclRef = s.sclRef ∧ t.sdaRef = s.sdaRef ∧
    t.status = s.status ∧ t.phase = s.phase ∧ t.idx = s.idx ∧ t.uop = s.uop ∧ t.uopArg = s.uopArg ∧
    t.result = s.result ∧ t.env = s.env ∧ t.clock = s.clock

/-- The parameters and what the environment does from this step on are the same, so that `envStep` of the one does to
its timer, pins and memory what it would do to the other's. -/
def SameInputs (s t : State) : Prop := t.par = s.par ∧ t.env = s.env ∧ t.clock = s.clock

/-- The registers of the sub-blocks are the same. -/
def SameEngines (s t : State) : Prop := t.sr = s.sr ∧ t.bitcnt = s.bitcnt ∧ t.ackbit = s.ackbit

/-- Every byte of buffer memory reads as before. -/
def SameMemory (s t : State) : Prop := ∀ a, readByte t.mem a = readByte s.mem a

/-- Every pin has its drive state of before. -/
def SamePins (s t : State) : Prop := ∀ r, t.drv r = s.drv r

/-- No action is on a port (10_state R40, 30_encoding R80, R81). -/
def NoPortAction (t : State) : Prop := t.out.gpioOp = 0b00#2 ∧ t.out.tmrReset = 0#1 ∧ t.out.memOp = 0b00#2

/-! ### Invariants -/

/-- Every register fits its width, and the lists that stand for buffer memory and for `DRV` have their canonical form
(00_scope R6, 10_state R22 to R38). -/
def FitsWidths (s : State) : Prop :=
  s.par.wf = true ∧ s.len < 2 ^ s.par.lenWidth ∧ s.buf < 2 ^ s.par.addrWidth ∧
    s.sclRef < 2 ^ s.par.pinWidth ∧ s.sdaRef < 2 ^ s.par.pinWidth ∧ s.idx < 2 ^ s.par.lenWidth ∧
    s.tcnt < 2 ^ s.par.timerWidth ∧ s.out.gpioRef < 2 ^ s.par.pinWidth ∧ s.out.memAddr < 2 ^ s.par.addrWidth ∧
    Memory.wf s.mem = true ∧ Memory.inSpace s.par s.mem = true ∧ Pins.wf s.drvLow = true ∧
    ∀ r ∈ s.drvLow, r < 2 ^ s.par.pinWidth

/-- The command being performed is an admitted one (30_encoding R72, R75) and `STATUS` says busy (10_state R26). -/
def Admitted (s : State) : Prop :=
  s.status = 0x01#8 ∧ s.cmd = encode (if s.rw = 0#1 then .write (devAddrOf s.cmd) else .read (devAddrOf s.cmd)) ∧
    s.sclRef ≠ s.sdaRef ∧ s.buf + s.len ≤ 2 ^ s.par.addrWidth

/-- Between commands (10_state R26, R27, R32). -/
def IdleControl (s : State) : Prop :=
  (s.status = 0x00#8 ∨ s.status = 0x02#8 ∨ s.status = 0x06#8) ∧ s.dlyWait = 0#1

/-- In phase ADDRESS (10_state R27). -/
def AddressControl (s : State) : Prop := Performing (.txByte s.addrByte) s ∨ Performing .checkAck s

/-- In phase DATA of a WRITE (44_transactions R161): the payload byte is read, then transmitted, then checked. -/
def WriteControl (s : State) : Prop :=
  (((s.due = .memRead ∧ s.dlyWait = 0#1) ∨ Performing (.txByte (readByte s.mem s.byteAddr)) s) ∧ s.ackbit = 0#1) ∨
    Performing .checkAck s

/-- In phase DATA of a READ (44_transactions R162): the byte is received, then written, then answered. -/
def ReadControl (s : State) : Prop :=
  s.ackbit = 0#1 ∧
    (Performing .rxByte s ∨ (s.due = .memWrite ∧ s.dlyWait = 0#1) ∨ (Performing .sendAck s ∧ s.idx + 1 < s.len) ∨
      (Performing .sendNack s ∧ s.idx + 1 = s.len))

/-- In phase STOP (44_transactions R164, 60_exceptions R192): the result is the last sample of CHECK_ACK. -/
def StopControl (s : State) : Prop :=
  (Performing .stop s ∨ (s.uopWord = encode .stop ∧ s.due = .complete ∧ s.dlyWait = 0#1)) ∧ (s.result = .ackFailure ↔ s.ackbit = 1#1)

/-- The sequencer's registers agree with one another: every state a run reaches is such a state
(10_state R26 to R32, 44_transactions R161 to R164). -/
def ControlSound (s : State) : Prop :=
  (s.phase = 0#3 ∧ IdleControl s) ∨
  (Admitted s ∧
    ((s.phase = 1#3 ∧ Performing .start s) ∨
     (s.phase = 2#3 ∧ AddressControl s) ∨
     (s.phase = 3#3 ∧ s.idx < s.len ∧ (s.rw = 0#1 → WriteControl s) ∧ (s.rw = 1#1 → ReadControl s)) ∨
     (s.phase = 4#3 ∧ StopControl s)))

/-- The drive states of SCL and SDA before action `k` of a compound micro-op, `none` where a run may find either; at
`opLength` they are those after it (41_start_stop R112, 42_byte_shift R120, R121, 43_ack R140 to R142). -/
def drivesAt (i : Instr) (k : Nat) : Option Drive × Option Drive :=
  match i with
  | .start =>
    (if k ≤ 1 then none else if k ≤ 5 then some .rel else some .low,
     if k = 0 then none else if k ≤ 3 then some .rel else some .low)
  | .stop =>
    (if k ≤ 3 then some .low else some .rel,
     if k ≤ 1 then none else if k ≤ 5 then some .low else some .rel)
  | .txByte b =>
    (if k % 5 = 2 ∨ k % 5 = 3 then some .rel else some .low,
     if k = 0 then none else if bitOf b (7 - (k - 1) / 5) = 1#1 then some .rel else some .low)
  | .rxByte =>
    (if k % 5 = 2 ∨ k % 5 = 3 ∨ k % 5 = 4 then some .rel else some .low, if k = 0 then none else some .rel)
  | .checkAck => (if 2 ≤ k ∧ k ≤ 4 then some .rel else some .low, if k = 0 then none else some .rel)
  | .sendAck =>
    (if k = 2 ∨ k = 3 then some .rel else some .low,
     if k = 0 then none else if k ≤ 4 then some .low else some .rel)
  | .sendNack => (if k = 2 ∨ k = 3 then some .rel else some .low, if k = 0 then none else some .rel)
  | _ => (none, none)

/-- SCL and SDA have these drive states, where one is given. -/
def Drives (s : State) (p : Option Drive × Option Drive) : Prop :=
  (∀ x, p.1 = some x → s.drv s.sclRef = x) ∧ (∀ x, p.2 = some x → s.drv s.sdaRef = x)

/-- While a command runs, SCL and SDA have the drive states the step lists give them at the core's position
(41_start_stop R112). -/
def DrivesSound (s : State) : Prop :=
  s.phase ≠ 0#3 →
    (∀ i, s.due = .uop → s.uopWord = encode i → Drives s (drivesAt i s.upos)) ∧
    (∀ i, s.due = .ended → s.uopWord = encode i → Drives s (drivesAt i (opLength i))) ∧
    ((s.due = .memRead ∨ s.due = .memWrite) → Drives s (some .low, some .rel)) ∧
    (s.due = .complete → Drives s (some .rel, some .rel))

/-- The bits RX_BYTE has sampled before position `k`, as a byte whose other bits do not matter. -/
def receivedSoFar (s : State) : Byte := s.sr <<< (8 - (s.upos + 1) / 5)

/-- The whole trace of the current micro-op, as far as the registers determine it. -/
def uopTrace (s : State) : List Event :=
  match decodeUop s.uopWord with
  | .ok .start => startTrace s.sclRef s.sdaRef
  | .ok .stop => stopTrace s.sclRef s.sdaRef
  | .ok (.txByte b) => txTrace s.sclRef s.sdaRef b
  | .ok .rxByte => rxTrace s.sclRef s.sdaRef (if s.due = .uop then receivedSoFar s else s.sr)
  | .ok .checkAck => checkTrace s.sclRef s.sdaRef s.ackbit
  | .ok .sendAck => sendAckTrace s.sclRef s.sdaRef
  | .ok .sendNack => sendNackTrace s.sclRef s.sdaRef
  | _ => []

/-- What the current micro-op has emitted so far: one event for each action done, and the `D` of a delay that waits. -/
def uopSoFar (s : State) : List Event :=
  if s.due = .uop then (uopTrace s).take (s.upos + s.dlyWait.toNat) else uopTrace s

/-- The bytes of buffer memory from `x` on. -/
def bytesFrom (m : List Host.Cell) (x n : Nat) : List Byte := (List.range n).map fun k => readByte m (x + k)

/-- The payload bytes a READ has finished: none of them is its last unless `n` is the whole length. -/
def readSoFar (c d x : Nat) (len : Nat) (m : List Host.Cell) (n : Nat) : List Event :=
  (List.range n).flatMap fun k => readByteTrace c d (x + k) (readByte m (x + k)) (k + 1 == len)

/-- The address phase of the current command, with its check sampling `a`. -/
def headTrace (s : State) (a : Bit) : List Event := addressTrace s.sclRef s.sdaRef s.addrByte a

/-- The payload bytes before `IDX = n`, all acknowledged or received. -/
def payloadSoFar (s : State) (n : Nat) : List Event :=
  if s.rw = 0#1 then writePayloadTrace s.sclRef s.sdaRef s.buf (bytesFrom s.mem s.buf n)
  else readSoFar s.sclRef s.sdaRef s.buf s.len s.mem n

/-- What the current payload byte has emitted so far. -/
def byteSoFar (s : State) : List Event :=
  let v := readByte s.mem s.byteAddr
  match s.due with
  | .memRead => []
  | .memWrite => rxTrace s.sclRef s.sdaRef s.sr
  | _ =>
    match decodeUop s.uopWord with
    | .ok (.txByte _) => .memRead s.byteAddr v :: uopSoFar s
    | .ok .checkAck => .memRead s.byteAddr v :: (txTrace s.sclRef s.sdaRef v ++ uopSoFar s)
    | .ok .rxByte => uopSoFar s
    | _ => rxTrace s.sclRef s.sdaRef v ++ .memWrite s.byteAddr v :: uopSoFar s

/-- What the current command has emitted since its START, up to the one question the registers do not answer in phase
STOP: whether it was the address or payload byte `IDX` that was not acknowledged (44_transactions R161, R162). -/
def commandTraces (s : State) : List (List Event) :=
  let c := s.sclRef
  let d := s.sdaRef
  if s.phase = 1#3 then [uopSoFar s]
  else if s.phase = 2#3 then
    match decodeUop s.uopWord with
    | .ok .checkAck => [startTrace c d ++ txTrace c d s.addrByte ++ uopSoFar s]
    | _ => [startTrace c d ++ uopSoFar s]
  else if s.phase = 3#3 then [headTrace s 0#1 ++ payloadSoFar s s.idx ++ byteSoFar s]
  else if s.phase = 4#3 then
    match s.result with
    | .success => [headTrace s 0#1 ++ payloadSoFar s s.len ++ uopSoFar s]
    | .ackFailure =>
      [headTrace s 1#1 ++ uopSoFar s] ++
        (if s.rw = 0#1 ∧ s.idx < s.len then
          [headTrace s 0#1 ++ payloadSoFar s s.idx ++
            writeByteTrace c d s.byteAddr (readByte s.mem s.byteAddr) 1#1 ++ uopSoFar s]
        else [])
  else [[]]

/-- The trace ends with exactly what 44_transactions R161 and R162 say the current command has done so far. -/
def TraceSound (s : State) : Prop := s.phase ≠ 0#3 → ∃ l ∈ commandTraces s, l <:+ s.trace

/-- The trace is `base`, what was emitted before the current command, and then exactly what the current command has done
so far; between commands it is `base` itself. -/
def TraceSince (base : List Event) (s : State) : Prop := ∃ l ∈ commandTraces s, s.trace = base ++ l

/-- Every invariant but the one about traces. -/
def Sound (s : State) : Prop := FitsWidths s ∧ ControlSound s ∧ DrivesSound s

/-! ### Registers without a reset value (10_state R40) -/

/-- `t` agrees with `s` on everything a rule may still read or the outside can see: the parameters, `STATUS`, `PHASE`,
`DLY_WAIT`, the environment, the trace and the actions on the ports; while a command runs its registers and the position
in it; and each other register from where the running command has written it (10_state R39, R40). -/
def SameReadable (s t : State) : Prop :=
  (t.par = s.par ∧ t.status = s.status ∧ t.phase = s.phase ∧ t.dlyWait = s.dlyWait ∧ t.drvLow = s.drvLow ∧
    t.tcnt = s.tcnt ∧ t.mem = s.mem ∧ t.env = s.env ∧ t.clock = s.clock ∧ t.trace = s.trace) ∧
  (t.out.gpioOp = s.out.gpioOp ∧ t.out.tmrReset = s.out.tmrReset ∧ t.out.memOp = s.out.memOp ∧
    (s.out.gpioOp ≠ 0b00#2 → t.out.gpioRef = s.out.gpioRef) ∧ (s.out.memOp ≠ 0b00#2 → t.out.memAddr = s.out.memAddr) ∧
    (s.out.memOp = 0b10#2 → t.out.memWdata = s.out.memWdata)) ∧
  (s.phase ≠ 0#3 →
    (t.cmd = s.cmd ∧ t.len = s.len ∧ t.buf = s.buf ∧ t.sclRef = s.sclRef ∧ t.sdaRef = s.sdaRef ∧ t.uop = s.uop ∧
      t.uopArg = s.uopArg ∧ t.upos = s.upos ∧ t.due = s.due) ∧
    (s.phase = 3#3 → t.idx = s.idx) ∧
    (s.phase = 4#3 → t.result = s.result) ∧
    (s.uopWord = encode .checkAck → (s.due = .ended ∨ 3 < s.upos) → t.ackbit = s.ackbit) ∧
    (∀ b, s.uopWord = encode (.txByte b) → s.due = .uop → s.upos ≠ 0 → t.sr = s.sr ∧ t.bitcnt = s.bitcnt) ∧
    (s.uopWord = encode .rxByte → s.due = .uop → s.upos ≠ 0 →
      t.bitcnt = s.bitcnt ∧ receivedSoFar t = receivedSoFar s) ∧
    ((s.due = .memWrite ∨ (s.uopWord = encode .rxByte ∧ s.due = .ended)) → t.sr = s.sr))

/-! ### Phases -/

/-- `PHASE` after a step without reset (44_transactions R163). -/
def nextPhase (s : State) : BitVec 3 :=
  if s.phase = 0#3 then (if s.now.cmdValid = true ∧ s.cmdReady = true then 1#3 else 0#3)
  else if s.phase = 1#3 then (if s.due = .ended then 2#3 else 1#3)
  else if s.phase = 2#3 then
    (if s.due = .ended ∧ s.uopWord = encode .checkAck then (if s.ackbit = 1#1 ∨ s.len = 0 then 4#3 else 3#3)
     else 2#3)
  else if s.phase = 3#3 then
    (if s.due = .ended ∧ s.uopWord = encode .checkAck then
      (if s.ackbit = 1#1 ∨ s.idx + 1 = s.len then 4#3 else 3#3)
     else if s.due = .ended ∧ s.uopWord = encode .sendNack then 4#3
     else 3#3)
  else (if s.due = .complete then 0#3 else 4#3)

/-! ### Progress -/

/-- A bound on the steps that `UOP` still needs, polls that wait apart, with the sequencer's choice after it. -/
def uopLeft (i : Instr) (s : State) : Nat :=
  if s.due = .uop then 2 * (opLength i - s.upos) - s.dlyWait.toNat + 1 else 1

/-- The steps of a whole micro-op and of the choice after it. -/
def uopCost (i : Instr) : Nat := 2 * opLength i + 1

/-- A bound on the steps a command still needs, polls that wait apart (44_transactions R161, R162). -/
def stepsLeft (s : State) : Nat :=
  let tail := uopCost .stop + 1
  let afterByte := 100 * (s.len - s.idx - 1) + tail
  if s.phase = 1#3 then
    uopLeft .start s + uopCost (.txByte 0) + uopCost .checkAck + 100 * s.len + tail
  else if s.phase = 2#3 then
    match decodeUop s.uopWord with
    | .ok .checkAck => uopLeft .checkAck s + 100 * s.len + tail
    | _ => uopLeft (.txByte 0) s + uopCost .checkAck + 100 * s.len + tail
  else if s.phase = 3#3 then
    match s.due, decodeUop s.uopWord with
    | .memRead, _ => 1 + uopCost (.txByte 0) + uopCost .checkAck + afterByte
    | .memWrite, _ => 1 + uopCost .sendAck + afterByte
    | _, .ok (.txByte b) => uopLeft (.txByte b) s + uopCost .checkAck + afterByte
    | _, .ok .rxByte => uopLeft .rxByte s + 1 + uopCost .sendAck + afterByte
    | _, .ok i => uopLeft i s + afterByte
    | _, .error _ => afterByte
  else if s.phase = 4#3 then (if s.due = .complete then 1 else uopLeft .stop s + 1)
  else 0

/-- `n` steps of the machine, stopping at the first fault or refusal. -/
def steps : Nat → State → Answer
  | 0, s => .next s
  | n + 1, s =>
    match step s with
    | .next t => steps n t
    | .fault f => .fault f
    | .refused r => .refused r

/-- An environment that does not reset the block and whose timer reaches the threshold between two steps without
passing its greatest value (70_reset_and_hazards R216). -/
def Prompt (p : Params) (i : Inputs) : Prop :=
  i.rst = false ∧ p.halfTicks ≤ i.ticks ∧ i.ticks < 2 ^ p.timerWidth

/-- An environment whose timer is stalled and that does not reset the block (60_exceptions R200). -/
def Stalled (i : Inputs) : Prop := i.rst = false ∧ i.ticks = 0

/-- The core is about to perform the first action of micro-op `i` of a command on two distinct pins, and the
environment does `ins` in the steps to come. -/
def AtStartOf (i : Instr) (s : State) (ins rest : List Inputs) : Prop :=
  s.status = 0x01#8 ∧ (s.phase = 1#3 ∨ s.phase = 2#3 ∨ s.phase = 3#3 ∨ s.phase = 4#3) ∧ s.sclRef ≠ s.sdaRef ∧
    s.uopWord = encode i ∧ s.due = .uop ∧ s.upos = 0 ∧ s.dlyWait = 0#1 ∧ s.env = ins ++ rest ∧
    ∀ x ∈ ins, Prompt s.par x

/-- Micro-op `i` has just ended: its whole trace was emitted and nothing else of the command changed. -/
def EndedAfter (s t : State) (rest : List Inputs) (tr : List Event) : Prop :=
  t.trace = s.trace ++ tr ∧ t.due = .ended ∧ t.upos = 0 ∧ t.dlyWait = 0#1 ∧ t.env = rest ∧ t.par = s.par ∧
    t.cmd = s.cmd ∧ t.len = s.len ∧ t.buf = s.buf ∧ t.sclRef = s.sclRef ∧ t.sdaRef = s.sdaRef ∧
    t.status = s.status ∧ t.phase = s.phase ∧ t.idx = s.idx ∧ t.uopWord = s.uopWord

end Sys2Proof.Safety
end

