-- ==== Sys2Proof/Certificates/Slice0/Obligations.lean ====
section
/-! DEFINITION. The statements for the provers. Each docstring names the rules of spec/ it formalises. -/

open Sys2Proof Sys2Proof.Machine Sys2Proof.Safety

/-! ### Encodings -/

/-- Decoding the encoding of any operation gives it back, with every operand at every value
(30_encoding R71, R72, R77, R78, R82). -/
def Obligations.DecodeOfEncodeIsTheInstruction : Prop := ∀ i : Instr, decode (encode i) = .ok i

/-- A word that decodes is the encoding of what it decodes to: no bit is dropped (30_encoding R72, R78, R82). -/
def Obligations.EncodeOfDecodeIsTheWord : Prop := ∀ (w : Word) (i : Instr), decode w = .ok i → encode i = w

/-- Words written out from the spec's tables decode to the operations they stand for, one or more of each row
(95_test_vectors 2.1, 2.2; 30_encoding R72, R78). -/
def Obligations.WordsOfTheSpecDecode : Prop :=
  decode 0x01A0 = .ok (.write 0x50) ∧ decode 0x01D1 = .ok (.read 0x68) ∧ decode 0x1000 = .ok .delayHalf ∧
  decode 0x2000 = .ok (.lineHigh .scl) ∧ decode 0x2100 = .ok (.lineHigh .sda) ∧ decode 0x3000 = .ok (.lineLow .scl) ∧
  decode 0x3100 = .ok (.lineLow .sda) ∧ decode 0x4100 = .ok .lineRead ∧ decode 0x5000 = .ok .start ∧
  decode 0x6000 = .ok .stop ∧ decode 0x70A5 = .ok (.txByte 0xA5) ∧ decode 0x8000 = .ok .rxByte ∧
  decode 0x9000 = .ok .checkAck ∧ decode 0xA000 = .ok .sendAck ∧ decode 0xB000 = .ok .sendNack

/-- A command word decodes exactly when `RSVD` is 0 and `OP` is 0x1, to WRITE or READ by its bit 0 with its bits 7:1
as the address (30_encoding R71, R72). -/
def Obligations.CommandWordsDecodeByTheirFields : Prop :=
  ∀ w : Word,
    ((w.extractLsb' 12 4 = 0x0#4 ∧ w.extractLsb' 8 4 = 0x1#4) →
      decodeCmd w = .ok (if w.extractLsb' 0 1 = 0#1 then .write (w.extractLsb' 1 7) else .read (w.extractLsb' 1 7))) ∧
    (¬ (w.extractLsb' 12 4 = 0x0#4 ∧ w.extractLsb' 8 4 = 0x1#4) → ∃ e, decodeCmd w = .error e)

/-- A micro-op word is reserved exactly when `CODE` is 0x0 or 0xC to 0xF, `RSVD` is not 0, `LSEL` is 1 on another
micro-op than LINE_HIGH, LINE_LOW, LINE_READ or 0 on LINE_READ, or `IMM8` is not 0 on another micro-op than TX_BYTE;
a step that meets one faults, as does a step that meets an unused `PHASE` value; and no run meets one
(30_encoding R79, 10_state R27). -/
def Obligations.ReservedMicroOpWordsFaultAndAreNeverMet : Prop :=
  (∀ w : Word, (∃ e, decodeUop w = .error e) ↔
    (w.extractLsb' 12 4 = 0x0#4 ∨ 0xC#4 ≤ w.extractLsb' 12 4) ∨ w.extractLsb' 9 3 ≠ 0#3 ∨
    (w.extractLsb' 8 1 = 1#1 ∧ w.extractLsb' 12 4 ≠ 0x2#4 ∧ w.extractLsb' 12 4 ≠ 0x3#4 ∧ w.extractLsb' 12 4 ≠ 0x4#4) ∨
    (w.extractLsb' 12 4 = 0x4#4 ∧ w.extractLsb' 8 1 = 0#1) ∨
    (w.extractLsb' 0 8 ≠ 0#8 ∧ w.extractLsb' 12 4 ≠ 0x7#4)) ∧
  (∀ s : State, s.now.rst = false → (s.phase = 1#3 ∨ s.phase = 2#3 ∨ s.phase = 3#3 ∨ s.phase = 4#3) →
    (s.due = .uop ∨ s.due = .ended) → (∃ e, decodeUop s.uopWord = .error e) → step s = .fault .reservedUop) ∧
  (∀ s : State, s.now.rst = false → 4#3 < s.phase → step s = .fault .reservedUop) ∧
  (∀ s : State, ControlSound s → s.phase ≠ 0#3 → (s.due = .uop ∨ s.due = .ended) → ∃ i, decodeUop s.uopWord = .ok i)

/-- At most one row of the two tables matches a word (30_encoding R82). -/
def Obligations.AtMostOneRowMatchesAWord : Prop :=
  ∀ (w : Word) (r r' : Row), r ∈ cmdRows ++ uopRows → r' ∈ cmdRows ++ uopRows → rowHits r w = true →
    rowHits r' w = true → r = r'

/-- The address byte is `(DEV_ADDR << 1) | RW`, it is the low byte of the command word, and it is the byte TX_BYTE is
given after START (30_encoding R73, R71). -/
def Obligations.AddressByteIsAddressThenDirection : Prop :=
  (∀ a : BitVec 7,
    addrByteOf (encode (.write a)) = (a.zeroExtend 8 <<< 1) ∧
    addrByteOf (encode (.read a)) = (a.zeroExtend 8 <<< 1) ||| 1#8 ∧
    (encode (.write a)).extractLsb' 0 8 = addrByteOf (encode (.write a)) ∧
    (encode (.read a)).extractLsb' 0 8 = addrByteOf (encode (.read a))) ∧
  (∀ s : State, s.now.rst = false → s.phase = 1#3 → s.due = .ended → s.uopWord = encode .start →
    ∃ r, step s = .next (envStep r) ∧ SameInputs s r ∧ r.uopWord = encode (.txByte (addrByteOf s.cmd)) ∧ r.upos = 0 ∧
      r.due = .uop ∧ r.phase = 2#3 ∧ r.trace = s.trace ∧ SameMemory s r ∧ SamePins s r ∧ SameEngines s r ∧
      r.cmd = s.cmd ∧ r.len = s.len ∧ r.buf = s.buf ∧ r.sclRef = s.sclRef ∧ r.sdaRef = s.sdaRef ∧ r.idx = s.idx ∧
      r.status = s.status ∧ r.tcnt = s.tcnt ∧ r.dlyWait = s.dlyWait ∧ NoPortAction r)

/-- A well-formed source-level call becomes `cmd_word = 0x0100 | (addr7 << 1) | RW`, which is the word of its
operation, with its operands and with `(port << P_PIN_BITS) | pin` for each pin (30_encoding R84); an address above
0x7F is refused (R75, decision D28). A call is well-formed here if its address fits and, by the model's choice of log
19, its other numbers fit their fields. -/
def Obligations.CallsAreEncodedAsTheSpecSays : Prop :=
  (∀ (p : Params) (c : HostCall), c.wf p = true →
    ∃ o, transcribe p c = some o ∧
      o.word = 0x0100#16 ||| (BitVec.ofNat 16 c.addr <<< 1) ||| (if c.isRead then 1#16 else 0#16) ∧
      o.word = encode (if c.isRead then .read (BitVec.ofNat 7 c.addr) else .write (BitVec.ofNat 7 c.addr)) ∧
      o.len = c.len ∧ o.buf = c.buf ∧ o.scl = c.scl.port * 2 ^ p.pinBits + c.scl.pin ∧
      o.sda = c.sda.port * 2 ^ p.pinBits + c.sda.pin ∧ o.scl < 2 ^ p.pinWidth ∧ o.sda < 2 ^ p.pinWidth) ∧
  (∀ (p : Params) (c : HostCall), 0x7F < c.addr → transcribe p c = none) ∧
  transcribe Params.example ⟨false, 0x50, 0x2000, 1, ⟨1, 6⟩, ⟨1, 7⟩⟩ = some ⟨0x01A0, 1, 0x2000, 0x16, 0x17⟩

/-! ### Accepting a command -/

/-- An admissible WRITE or READ offered to a ready block is accepted: the command registers are latched, `STATUS` is
0x01, `PHASE` is START with START at its first action, and nothing else of the state changes
(44_transactions R160, 10_state R22 to R25). -/
def Obligations.AdmissibleCommandIsAccepted : Prop :=
  ∀ (i : Instr) (s : State), ((∃ a, i = .write a) ∨ ∃ a, i = .read a) → s.cmdReady = true →
    (offerNow (encode i) s).wf s.par = true →
    ∃ t, exec i s = .next t ∧ t.cmd = encode i ∧ t.len = s.now.cmdLen % 2 ^ s.par.lenWidth ∧
      t.buf = s.now.cmdBuf % 2 ^ s.par.addrWidth ∧ t.sclRef = s.now.cmdScl % 2 ^ s.par.pinWidth ∧
      t.sdaRef = s.now.cmdSda % 2 ^ s.par.pinWidth ∧ t.busy = 1#1 ∧ t.done = 0#1 ∧ t.ackfail = 0#1 ∧
      t.status = 0x01#8 ∧ t.phase = 1#3 ∧ t.uopWord = encode .start ∧ t.upos = 0 ∧ t.due = .uop ∧
      t.par = s.par ∧ t.idx = s.idx ∧ SameEngines s t ∧ t.dlyWait = s.dlyWait ∧ t.result = s.result ∧
      SameMemory s t ∧ SamePins s t ∧ t.tcnt = s.tcnt ∧ t.env = s.env ∧ t.clock = s.clock ∧ t.trace = s.trace ∧
      NoPortAction t

/-- In IDLE an offered command is refused exactly when it fails one of the four checks, whatever its word
(30_encoding R75, R76). -/
def Obligations.InadmissibleCommandIsRefused : Prop :=
  ∀ s : State, s.now.rst = false → s.phase = 0#3 → s.busy = 0#1 → s.now.cmdValid = true →
    (step s = .refused .illegalCommand ↔
      ¬ (s.now.cmdWord.extractLsb' 12 4 = 0#4 ∧ s.now.cmdWord.extractLsb' 8 4 = 1#4 ∧
        s.now.cmdScl % 2 ^ s.par.pinWidth ≠ s.now.cmdSda % 2 ^ s.par.pinWidth ∧
        s.now.cmdBuf % 2 ^ s.par.addrWidth + s.now.cmdLen % 2 ^ s.par.lenWidth ≤ 2 ^ s.par.addrWidth))

/-- While `STATUS.BUSY` is 1 or `rst` is 1 a WRITE or READ is neither accepted nor refused: the host holds
(44_transactions R160, 60_exceptions R194). -/
def Obligations.BusyBlockHoldsACommand : Prop :=
  ∀ (i : Instr) (s : State), ((∃ a, i = .write a) ∨ ∃ a, i = .read a) → (s.busy = 1#1 ∨ s.now.rst = true) →
    ∃ t, exec i s = .next t ∧ SameControl s t ∧ SameEngines s t ∧ SameMemory s t ∧ SamePins s t ∧ t.upos = s.upos ∧
      t.dlyWait = s.dlyWait ∧ t.due = s.due ∧ t.tcnt = s.tcnt ∧ t.trace = s.trace

/-! ### The primitives -/

/-- LINE_HIGH (40_delay_and_lines R92): one SET_HIGH action on the line's pin and one event, also when the pin was
released; that pin is released and no other changes; the level of SDA is then the other participants'. SCL has no level in
this model (log 18): of it the drive state is said. -/
def Obligations.LineHighReleasesTheLine : Prop :=
  (∀ (l : Line) (s : State), ∃ t, exec (.lineHigh l) s = .next t ∧ t.out.gpioOp = 0b01#2 ∧
    t.out.gpioRef = s.lineRef l ∧ t.out.tmrReset = 0#1 ∧ t.out.memOp = 0b00#2 ∧
    t.trace = s.trace ++ [.high (s.lineRef l)] ∧ (∀ r, t.drv r = if r = s.lineRef l then .rel else s.drv r) ∧
    (l = .sda → t.sdaRead = s.now.sdaLevel) ∧ SameControl s t ∧ SameEngines s t ∧ SameMemory s t ∧
    t.tcnt = s.tcnt ∧ t.dlyWait = s.dlyWait) ∧
  (∀ s : State, s.lineRef .scl = s.sclRef ∧ s.lineRef .sda = s.sdaRef) ∧
  decodeUop 0x2000 = .ok (.lineHigh .scl) ∧ decodeUop 0x2100 = .ok (.lineHigh .sda) ∧
  listing (.lineHigh .scl) = "line_high scl" ∧ listing (.lineHigh .sda) = "line_high sda"

/-- LINE_LOW (40_delay_and_lines R93): one SET_LOW action on the line's pin and one event, also when the pin was driven
low; that pin is driven low and no other changes; the level of SDA is then 0 whatever the other participants do. SCL has
no level in this model (log 18): of it the drive state is said. -/
def Obligations.LineLowDrivesTheLine : Prop :=
  (∀ (l : Line) (s : State), ∃ t, exec (.lineLow l) s = .next t ∧ t.out.gpioOp = 0b10#2 ∧
    t.out.gpioRef = s.lineRef l ∧ t.out.tmrReset = 0#1 ∧ t.out.memOp = 0b00#2 ∧
    t.trace = s.trace ++ [.low (s.lineRef l)] ∧ (∀ r, t.drv r = if r = s.lineRef l then .low else s.drv r) ∧
    (l = .sda → t.sdaRead = 0#1) ∧ SameControl s t ∧ SameEngines s t ∧ SameMemory s t ∧ t.tcnt = s.tcnt ∧
    t.dlyWait = s.dlyWait) ∧
  (∀ s : State, s.lineRef .scl = s.sclRef ∧ s.lineRef .sda = s.sdaRef) ∧
  decodeUop 0x3000 = .ok (.lineLow .scl) ∧ decodeUop 0x3100 = .ok (.lineLow .sda) ∧
  listing (.lineLow .scl) = "line_low scl" ∧ listing (.lineLow .sda) = "line_low sda"

/-- LINE_READ (40_delay_and_lines R94): one READ action on SDA and one event with the level read, which is 0 while SDA
is driven low and the bus agent's otherwise; no drive state, register or flag changes. The caller stores the level: the
sample of RX_BYTE in `SR[0]`, that of CHECK_ACK in `ACKBIT`. -/
def Obligations.LineReadSamplesSda : Prop :=
  (∀ s : State, ∃ t, exec .lineRead s = .next t ∧ t.out.gpioOp = 0b11#2 ∧ t.out.gpioRef = s.sdaRef ∧
    t.out.tmrReset = 0#1 ∧ t.out.memOp = 0b00#2 ∧
    t.trace = s.trace ++ [.sample s.sdaRef (if s.drv s.sdaRef = .low then 0#1 else s.now.sdaLevel)] ∧
    SamePins s t ∧ SameControl s t ∧ SameEngines s t ∧ SameMemory s t ∧ t.tcnt = s.tcnt ∧ t.dlyWait = s.dlyWait) ∧
  (∀ s : State, s.upos < 41 → s.upos % 5 = 3 →
    ∃ t, exec .rxByte s = .next t ∧ t.sr.extractLsb' 0 1 = s.sdaRead ∧ t.ackbit = s.ackbit) ∧
  (∀ s : State, s.upos = 3 → ∃ t, exec .checkAck s = .next t ∧ t.ackbit = s.sdaRead ∧ t.sr = s.sr) ∧
  decodeUop 0x4100 = .ok .lineRead ∧ listing .lineRead = "line_read sda"

/-- DELAY_HALF (40_delay_and_lines R90): it resets `TCNT` with one event and waits; it polls without an event while
`TCNT` is below `P_HALF_TICKS`; it ends when `TCNT` is at least that. No flag, pin or byte changes. -/
def Obligations.DelayHalfWaitsForTheThreshold : Prop :=
  (∀ s : State, ∃ t, exec .delayHalf s = .next t ∧ SameControl s t ∧ SameEngines s t ∧ SameMemory s t ∧ SamePins s t ∧
    (s.dlyWait = 0#1 → t.tcnt = 0 ∧ t.dlyWait = 1#1 ∧ t.out.tmrReset = 1#1 ∧ t.trace = s.trace ++ [.delay] ∧
      t.due = s.due ∧ t.upos = s.upos) ∧
    (s.dlyWait = 1#1 → s.tcnt < s.par.halfTicks → t.tcnt = s.tcnt ∧ t.dlyWait = 1#1 ∧ t.trace = s.trace ∧
      t.due = s.due ∧ t.upos = s.upos ∧ NoPortAction t) ∧
    (s.dlyWait = 1#1 → s.par.halfTicks ≤ s.tcnt → t.tcnt = s.tcnt ∧ t.dlyWait = 0#1 ∧ t.trace = s.trace ∧
      t.due = .ended ∧ NoPortAction t)) ∧
  decodeUop 0x1000 = .ok .delayHalf ∧ listing .delayHalf = "delay_half"

/-! ### The compound micro-ops, an action at a time -/

/-- START, STOP, TX_BYTE, RX_BYTE, CHECK_ACK, SEND_ACK and SEND_NACK answer a next state at every position of their
expansion: a line action emits exactly the event of the step list at that position and moves on; a delay begins,
waits, or ends and moves on; the last action ends the micro-op (10_state R29, 40_delay_and_lines R91,
41_start_stop R110, R111, 42_byte_shift R120, R121, 43_ack R140 to R142). -/
def Obligations.MicroOpsPerformTheirStepLists : Prop :=
  ∀ (i : Instr) (s : State), compound i = true → s.upos < opLength i → ShiftAt i s →
    ∃ t, exec i s = .next t ∧
      (delayAt i s.upos = false →
        (∃ e, actionEvent s.sclRef s.sdaRef i s.upos s.sdaRead = some e ∧ t.trace = s.trace ++ [e]) ∧
        t.upos = s.upos + 1 ∧ t.due = s.due ∧ t.dlyWait = s.dlyWait ∧ t.tcnt = s.tcnt) ∧
      (delayAt i s.upos = true → s.dlyWait = 0#1 →
        t.trace = s.trace ++ [.delay] ∧ t.dlyWait = 1#1 ∧ t.tcnt = 0 ∧ t.upos = s.upos ∧ t.due = s.due) ∧
      (delayAt i s.upos = true → s.dlyWait = 1#1 → s.tcnt < s.par.halfTicks →
        t.trace = s.trace ∧ t.dlyWait = 1#1 ∧ t.tcnt = s.tcnt ∧ t.upos = s.upos ∧ t.due = s.due) ∧
      (delayAt i s.upos = true → s.dlyWait = 1#1 → s.par.halfTicks ≤ s.tcnt →
        t.trace = s.trace ∧ t.dlyWait = 0#1 ∧ t.tcnt = s.tcnt ∧
        (if s.upos + 1 = opLength i then t.upos = 0 ∧ t.due = .ended else t.upos = s.upos + 1 ∧ t.due = s.due))

/-- What an action of a compound micro-op leaves unchanged: the parameters, the command registers, `STATUS`, `PHASE`,
`IDX`, the micro-op word; every byte of buffer memory; every pin but SCL and SDA; `SR` and `BITCNT` except by TX_BYTE
and RX_BYTE; `ACKBIT` except by CHECK_ACK; `TCNT` except by the reset of a delay (10_state R42, R33; 20_memory R66). -/
def Obligations.MicroOpsLeaveTheRestUnchanged : Prop :=
  ∀ (i : Instr) (s t : State), compound i = true → exec i s = .next t →
    SameControl s t ∧ SameMemory s t ∧ (∀ r, r ≠ s.sclRef → r ≠ s.sdaRef → t.drv r = s.drv r) ∧
    ((∀ b, i ≠ .txByte b) → i ≠ .rxByte → t.sr = s.sr ∧ t.bitcnt = s.bitcnt) ∧
    (i ≠ .checkAck → t.ackbit = s.ackbit) ∧
    (t.tcnt = s.tcnt ∨ (delayAt i s.upos = true ∧ s.dlyWait = 0#1 ∧ t.tcnt = 0)) ∧
    t.out.memOp = 0b00#2

/-! ### The compound micro-ops as a whole, with a timer that keeps advancing -/

/-- START from its first action to its end, by the machine's own steps: its whole trace, both lines driven low after
it, no flag written (41_start_stop R110, R112). -/
def Obligations.StartRunsToItsEnd : Prop :=
  ∀ (s : State) (ins rest : List Inputs), AtStartOf .start s ins rest → ins.length = 10 →
    ∃ t, steps 10 s = .next t ∧ EndedAfter s t rest (startTrace s.sclRef s.sdaRef) ∧ t.drv s.sclRef = .low ∧
      t.drv s.sdaRef = .low ∧ SameEngines s t

/-- STOP from its first action to its end: its whole trace, both lines released after it, no flag written
(41_start_stop R111, R112). -/
def Obligations.StopRunsToItsEnd : Prop :=
  ∀ (s : State) (ins rest : List Inputs), AtStartOf .stop s ins rest → ins.length = 10 →
    ∃ t, steps 10 s = .next t ∧ EndedAfter s t rest (stopTrace s.sclRef s.sdaRef) ∧ t.drv s.sclRef = .rel ∧
      t.drv s.sdaRef = .rel ∧ SameEngines s t

/-- TX_BYTE from its first action to its end: eight groups, most-significant bit first; `SR` 0x00 and `BITCNT` 0 after
it; SCL driven low and SDA as the last bit leaves it (42_byte_shift R120, R122). -/
def Obligations.TxByteRunsToItsEnd : Prop :=
  ∀ (b : Byte) (s : State) (ins rest : List Inputs), AtStartOf (.txByte b) s ins rest → ins.length = 56 →
    ∃ t, steps 56 s = .next t ∧ EndedAfter s t rest (txTrace s.sclRef s.sdaRef b) ∧ t.sr = 0x00#8 ∧ t.bitcnt = 0#4 ∧
      t.ackbit = s.ackbit ∧ t.drv s.sclRef = .low ∧ t.drv s.sdaRef = (if bitOf b 0 = 1#1 then .rel else .low)

/-- RX_BYTE from its first action to its end: whatever `SR` held, if the bus gives the bits of `b` at the eight
samples, bit 7 first, then `SR` is `b`; `BITCNT` 0; SCL driven low and SDA released (42_byte_shift R121, R122). -/
def Obligations.RxByteRunsToItsEnd : Prop :=
  ∀ (b : Byte) (s : State) (ins rest : List Inputs), AtStartOf .rxByte s ins rest → ins.length = 57 →
    ([4, 11, 18, 25, 32, 39, 46, 53].map fun k => (ins.getD k Inputs.quiet).sdaLevel) = wireBits b →
    ∃ t, steps 57 s = .next t ∧ EndedAfter s t rest (rxTrace s.sclRef s.sdaRef b) ∧ t.sr = b ∧ t.bitcnt = 0#4 ∧
      t.ackbit = s.ackbit ∧ t.drv s.sclRef = .low ∧ t.drv s.sdaRef = .rel

/-- CHECK_ACK from its first action to its end: `ACKBIT` is the level the bus gives at the sample; SCL driven low and
SDA released, whatever was sampled (43_ack R140, R143). -/
def Obligations.CheckAckRunsToItsEnd : Prop :=
  ∀ (s : State) (ins rest : List Inputs), AtStartOf .checkAck s ins rest → ins.length = 8 →
    ∃ t, steps 8 s = .next t ∧
      EndedAfter s t rest (checkTrace s.sclRef s.sdaRef (ins.getD 4 Inputs.quiet).sdaLevel) ∧
      t.ackbit = (ins.getD 4 Inputs.quiet).sdaLevel ∧ t.sr = s.sr ∧ t.bitcnt = s.bitcnt ∧ t.drv s.sclRef = .low ∧
      t.drv s.sdaRef = .rel

/-- SEND_ACK from its first action to its end: its whole trace, `ACKBIT` unchanged, SCL driven low and SDA released
(43_ack R141). -/
def Obligations.SendAckRunsToItsEnd : Prop :=
  ∀ (s : State) (ins rest : List Inputs), AtStartOf .sendAck s ins rest → ins.length = 8 →
    ∃ t, steps 8 s = .next t ∧ EndedAfter s t rest (sendAckTrace s.sclRef s.sdaRef) ∧ SameEngines s t ∧
      t.drv s.sclRef = .low ∧ t.drv s.sdaRef = .rel

/-- SEND_NACK from its first action to its end: its whole trace, `ACKBIT` unchanged, SCL driven low and SDA released
(43_ack R142). -/
def Obligations.SendNackRunsToItsEnd : Prop :=
  ∀ (s : State) (ins rest : List Inputs), AtStartOf .sendNack s ins rest → ins.length = 7 →
    ∃ t, steps 7 s = .next t ∧ EndedAfter s t rest (sendNackTrace s.sclRef s.sdaRef) ∧ SameEngines s t ∧
      t.drv s.sclRef = .low ∧ t.drv s.sdaRef = .rel

/-! ### Steps -/

/-- A step runs the command offered: in IDLE, ready, with a valid word that decodes to `i`, it is `exec i` followed by
the environment's part of the step (44_transactions R160, 60_exceptions R196). -/
def Obligations.StepRunsTheOfferedCommand : Prop :=
  ∀ (s : State) (i : Instr), s.now.rst = false → s.phase = 0#3 → s.busy = 0#1 → s.now.cmdValid = true →
    decodeCmd s.now.cmdWord = .ok i → step s = thenEnv (exec i s)

/-- A step runs the micro-op at `UOP`: while a command runs and an action is due, a word that decodes to `i` makes the
step `exec i` followed by the environment's part (10_state R21, R29). -/
def Obligations.StepRunsTheMicroOp : Prop :=
  ∀ (s : State) (i : Instr), s.now.rst = false →
    (s.phase = 1#3 ∨ s.phase = 2#3 ∨ s.phase = 3#3 ∨ s.phase = 4#3) → s.due = .uop → decodeUop s.uopWord = .ok i →
    step s = thenEnv (exec i s)

/-- What a step does with no command running and none accepted: no action, no register changes
(60_exceptions R203, 10_state R40). -/
def Obligations.IdleStepDoesNothing : Prop :=
  ∀ s : State, s.now.rst = false → s.phase = 0#3 → (s.now.cmdValid = false ∨ s.busy = 1#1) →
    ∃ r, step s = .next (envStep r) ∧ SameControl s r ∧ SameEngines s r ∧ SameMemory s r ∧ SamePins s r ∧
      r.upos = s.upos ∧ r.dlyWait = s.dlyWait ∧ r.due = s.due ∧ r.tcnt = s.tcnt ∧ r.trace = s.trace ∧ NoPortAction r

/-- The reset values the spec gives: `STATUS` 0x00, `PHASE` IDLE, `DLY_WAIT` 0, no action on any port
(10_state R40). -/
def Obligations.ResetHasTheSpecsValues : Prop :=
  State.reset.status = 0x00#8 ∧ State.reset.phase = phaseCode .idle ∧ State.reset.dlyWait = 0#1 ∧
    State.reset.out.gpioOp = 0b00#2 ∧ State.reset.out.memOp = 0b00#2 ∧ State.reset.out.tmrReset = 0#1

/-- A step with `rst` = 1, in any state: the registers take the reset values the spec gives, no action is on any port,
`cmd_ready` is 0; reset changes neither `DRV` nor `TCNT` nor buffer memory, emits no event (so no STOP), and wins over
every other event (70_reset_and_hazards R210). -/
def Obligations.ResetWinsAndTouchesNothingOutside : Prop :=
  ∀ s : State, s.now.rst = true → s.cmdReady = false ∧
    ∃ r, step s = .next (envStep r) ∧ SameInputs s r ∧ r.status = 0x00#8 ∧ r.phase = phaseCode .idle ∧ r.dlyWait = 0#1 ∧
      r.out.gpioOp = 0b00#2 ∧ r.out.memOp = 0b00#2 ∧ r.out.tmrReset = 0#1 ∧ SamePins s r ∧ r.tcnt = s.tcnt ∧
      SameMemory s r ∧ r.trace = s.trace

/-- `PHASE` changes as the table says and in no other way (44_transactions R163). -/
def Obligations.PhaseFollowsTheTable : Prop :=
  ∀ s t : State, Sound s → s.now.rst = false → step s = .next t → t.phase = nextPhase s

/-- When CHECK_ACK has sampled NACK the sequencer goes to STOP at once: no event, no buffer access, no register of the
command changes, and the pending result is acknowledgment failure (60_exceptions R191, R192). -/
def Obligations.NackAbortsToStop : Prop :=
  ∀ s : State, s.now.rst = false → (s.phase = 2#3 ∨ s.phase = 3#3) → s.due = .ended → s.uopWord = encode .checkAck →
    s.ackbit = 1#1 →
    ∃ r, step s = .next (envStep r) ∧ SameInputs s r ∧ r.phase = 4#3 ∧ r.uopWord = encode .stop ∧ r.upos = 0 ∧
      r.due = .uop ∧ r.result = .ackFailure ∧ r.trace = s.trace ∧ SameMemory s r ∧ SamePins s r ∧ SameEngines s r ∧
      r.cmd = s.cmd ∧ r.len = s.len ∧ r.buf = s.buf ∧ r.sclRef = s.sclRef ∧ r.sdaRef = s.sdaRef ∧ r.idx = s.idx ∧
      r.status = s.status ∧ r.tcnt = s.tcnt ∧ r.dlyWait = s.dlyWait ∧ NoPortAction r

/-- WRITE: the payload byte at `BUF + IDX` is read by one access, with one event, and handed to TX_BYTE; buffer memory
does not change (44_transactions R161, 20_memory R52). -/
def Obligations.WriteReadsThePayloadByte : Prop :=
  ∀ s : State, s.now.rst = false → s.phase = 3#3 → s.due = .memRead → s.buf + s.idx < 2 ^ s.par.addrWidth →
    ∃ r, step s = .next (envStep r) ∧ SameInputs s r ∧ r.out.memOp = 0b01#2 ∧ r.out.memAddr = s.buf + s.idx ∧
      r.out.gpioOp = 0b00#2 ∧ r.out.tmrReset = 0#1 ∧
      r.trace = s.trace ++ [.memRead (s.buf + s.idx) (readByte s.mem (s.buf + s.idx))] ∧
      r.uopWord = encode (.txByte (readByte s.mem (s.buf + s.idx))) ∧ r.upos = 0 ∧ r.due = .uop ∧ SameMemory s r ∧
      SamePins s r ∧ SameEngines s r ∧ r.phase = s.phase ∧ r.idx = s.idx ∧ r.status = s.status ∧ r.cmd = s.cmd ∧
      r.len = s.len ∧ r.buf = s.buf ∧ r.sclRef = s.sclRef ∧ r.sdaRef = s.sdaRef ∧ r.tcnt = s.tcnt ∧
      r.dlyWait = s.dlyWait ∧ r.result = s.result

/-- READ: the byte in `SR` is written at `BUF + IDX` by one access, with one event, and no other byte changes; SEND_NACK
follows the last byte and SEND_ACK every other one (44_transactions R162, 20_memory R52). -/
def Obligations.ReadWritesTheReceivedByte : Prop :=
  ∀ s : State, s.now.rst = false → s.phase = 3#3 → s.due = .memWrite → s.buf + s.idx < 2 ^ s.par.addrWidth →
    Memory.wf s.mem = true →
    ∃ r, step s = .next (envStep r) ∧ SameInputs s r ∧ r.out.memOp = 0b10#2 ∧ r.out.memAddr = s.buf + s.idx ∧
      r.out.memWdata = s.sr ∧ r.out.gpioOp = 0b00#2 ∧ r.out.tmrReset = 0#1 ∧
      r.trace = s.trace ++ [.memWrite (s.buf + s.idx) s.sr] ∧
      (∀ a, readByte r.mem a = if a = s.buf + s.idx then s.sr else readByte s.mem a) ∧
      r.uopWord = encode (if s.idx + 1 = s.len then .sendNack else .sendAck) ∧ r.upos = 0 ∧ r.due = .uop ∧
      SamePins s r ∧ SameEngines s r ∧ r.phase = s.phase ∧ r.idx = s.idx ∧ r.status = s.status ∧ r.cmd = s.cmd ∧
      r.len = s.len ∧ r.buf = s.buf ∧ r.sclRef = s.sclRef ∧ r.sdaRef = s.sdaRef ∧ r.tcnt = s.tcnt ∧
      r.dlyWait = s.dlyWait ∧ r.result = s.result

/-- `Complete(res)` is one step after the last action of STOP: `ACKFAIL` is 1 exactly for acknowledgment failure, `DONE`
is 1, `BUSY` is 0, `PHASE` is IDLE, one event; the command registers keep their values, and the host may issue the next
command (44_transactions R164). -/
def Obligations.CompleteReportsTheResult : Prop :=
  (∀ s : State, s.now.rst = false → s.phase = 4#3 → s.due = .ended → s.uopWord = encode .stop →
    ∃ r, step s = .next (envStep r) ∧ r.due = .complete ∧ SameControl s r ∧ SameEngines s r ∧ SameMemory s r ∧
      SamePins s r ∧ r.upos = s.upos ∧ r.dlyWait = s.dlyWait ∧ r.tcnt = s.tcnt ∧ r.trace = s.trace ∧ NoPortAction r) ∧
  ∀ s : State, s.now.rst = false → s.phase = 4#3 → s.due = .complete →
    ∃ r, step s = .next (envStep r) ∧ SameInputs s r ∧
      r.ackfail = (if s.result = .ackFailure then 1#1 else 0#1) ∧ r.done = 1#1 ∧ r.busy = 0#1 ∧
      r.status = (if s.result = .ackFailure then 0x06#8 else 0x02#8) ∧ r.phase = phaseCode .idle ∧
      r.trace = s.trace ++ [.done s.result] ∧ r.cmd = s.cmd ∧ r.len = s.len ∧ r.buf = s.buf ∧
      r.sclRef = s.sclRef ∧ r.sdaRef = s.sdaRef ∧ SameMemory s r ∧ SamePins s r ∧ SameEngines s r ∧
      r.idx = s.idx ∧ r.tcnt = s.tcnt ∧ r.dlyWait = s.dlyWait ∧ NoPortAction r ∧ r.cmdReady = true

/-- `STATUS` keeps to its four legal values 0x00, 0x01, 0x02, 0x06 (10_state R26). -/
def Obligations.StatusKeepsItsLegalValues : Prop :=
  ∀ s t : State, (s.status = 0x00#8 ∨ s.status = 0x01#8 ∨ s.status = 0x02#8 ∨ s.status = 0x06#8) →
    step s = .next t → t.status = 0x00#8 ∨ t.status = 0x01#8 ∨ t.status = 0x02#8 ∨ t.status = 0x06#8

/-- While a command runs no step but a reset writes `CMD`, `LEN`, `BUF`, `SCL_REF` or `SDA_REF`
(10_state R22 to R25, 44_transactions R168). -/
def Obligations.CommandRegistersAreReadOnlyAfterAccept : Prop :=
  ∀ s t : State, s.now.rst = false → s.phase ≠ 0#3 → step s = .next t →
    t.cmd = s.cmd ∧ t.len = s.len ∧ t.buf = s.buf ∧ t.sclRef = s.sclRef ∧ t.sdaRef = s.sdaRef

/-- While a command runs what the host offers has no effect: two environments that differ only in the offered command
lead to the same answer (20_memory R64, 44_transactions R168). -/
def Obligations.LaterOffersHaveNoEffect : Prop :=
  ∀ (s : State) (x y : Inputs) (e : List Inputs), s.phase ≠ 0#3 →
    y = { x with cmdValid := y.cmdValid, cmdWord := y.cmdWord, cmdLen := y.cmdLen, cmdBuf := y.cmdBuf,
                 cmdScl := y.cmdScl, cmdSda := y.cmdSda } →
    step { s with env := x :: e } = step { s with env := y :: e }

/-- The core changes buffer memory only by the payload write of a READ, of one byte inside `BUF .. BUF + LEN - 1`: a step
in which no other agent writes leaves every byte, or is that write (20_memory R66, R51). -/
def Obligations.OnlyAReadWritesBufferMemory : Prop :=
  ∀ s t : State, Sound s → s.now.hostWrites = [] → step s = .next t →
    SameMemory s t ∨
      (s.phase = 3#3 ∧ s.rw = 1#1 ∧ s.due = .memWrite ∧ s.buf ≤ s.buf + s.idx ∧ s.buf + s.idx < s.buf + s.len ∧
        ∀ a, readByte t.mem a = if a = s.buf + s.idx then s.sr else readByte s.mem a)

/-- From accept to `Complete` no other agent changes a byte of `BUF .. BUF + LEN - 1` or the drive state of SCL or SDA
(20_memory R61, R62). In every step of a command a buffer byte stays unless it is the one the core writes, which becomes
`SR`; each of the two pins takes the drive state of the step's own line action and otherwise stays; so both stay in
every step that is no line action or only a read: a step of a delay, a sample, a buffer access, a choice. In the
accepting step all of them stay. That the model drops what other agents try is its choice, for the duty the spec lays
on the environment (log 13). -/
def Obligations.BufferAndPinsAreExclusive : Prop :=
  (∀ s t : State, Sound s → s.now.rst = false → s.phase ≠ 0#3 → s.due ≠ .complete → step s = .next t →
    (∀ a, s.buf ≤ a → a < s.buf + s.len → (s.due = .memWrite → a ≠ s.buf + s.idx) →
      readByte t.mem a = readByte s.mem a) ∧
    (s.due = .memWrite → readByte t.mem (s.buf + s.idx) = s.sr) ∧
    (∀ r, r = s.sclRef ∨ r = s.sdaRef →
      t.drv r = if t.trace = s.trace ++ [.high r] then .rel
        else if t.trace = s.trace ++ [.low r] then .low else s.drv r) ∧
    ((s.due ≠ .uop ∨ ∃ i, s.uopWord = encode i ∧ (delayAt i s.upos = true ∨ sampleAt i s.upos = true)) →
      t.drv s.sclRef = s.drv s.sclRef ∧ t.drv s.sdaRef = s.drv s.sdaRef)) ∧
  (∀ s t : State, Sound s → s.now.rst = false → s.phase = 0#3 → step s = .next t → t.phase ≠ 0#3 →
    (∀ a, t.buf ≤ a → a < t.buf + t.len → readByte t.mem a = readByte s.mem a) ∧
    t.drv t.sclRef = s.drv t.sclRef ∧ t.drv t.sdaRef = s.drv t.sdaRef)

/-- Every step emits at most one event, after all earlier ones, and it names only the command's own pins; only SDA is
ever read (20_memory R60, 40_delay_and_lines R95, R96). -/
def Obligations.OneEventAStepOnTheCommandsPins : Prop :=
  ∀ s t : State, step s = .next t →
    ∃ es, t.trace = s.trace ++ es ∧ es.length ≤ 1 ∧ ∀ e ∈ es, NamesOnly s.sclRef s.sdaRef e

/-- The block samples SDA only while it releases it, so every sample is the bus agent's draw (10_state R36). -/
def Obligations.SdaIsReadOnlyWhileReleased : Prop :=
  ∀ (s t : State) (v : Bit), Sound s → s.phase ≠ 0#3 → step s = .next t →
    t.trace = s.trace ++ [.sample s.sdaRef v] → s.drv s.sdaRef = .rel ∧ v = s.now.sdaLevel

/-- No other start or stop condition: while SCL is released, SDA's drive state changes only by the `L(d)` of START, by
the last `H(d)` of STOP, and by the first `H(d)` of a START that finds SDA driven low (41_start_stop R112). -/
def Obligations.NoOtherStartOrStopCondition : Prop :=
  ∀ s t : State, Sound s → s.now.rst = false → s.phase ≠ 0#3 → s.due ≠ .complete → step s = .next t →
    s.drv s.sclRef = .rel → t.drv s.sdaRef ≠ s.drv s.sdaRef →
    s.due = .uop ∧
      ((s.uopWord = encode .start ∧ s.upos = 3 ∧ s.drv s.sdaRef = .rel) ∨
       (s.uopWord = encode .stop ∧ s.upos = 5 ∧ s.drv s.sdaRef = .low) ∨
       (s.uopWord = encode .start ∧ s.upos = 0 ∧ s.drv s.sdaRef = .low))

/-! ### Invariants -/

/-- Every step keeps every register inside its width and the canonical forms of buffer memory and `DRV`
(00_scope R6, 10_state R22 to R38). -/
def Obligations.WidthsAndCanonicalFormsAreKept : Prop :=
  ∀ s t : State, FitsWidths s → step s = .next t → FitsWidths t

/-- Every step keeps the sequencer's registers consistent (10_state R26 to R32, 44_transactions R161 to R164). -/
def Obligations.SequencerStaysConsistent : Prop :=
  ∀ s t : State, FitsWidths s → ControlSound s → step s = .next t → ControlSound t

/-- Every step keeps SCL and SDA in the drive states the step lists give them (41_start_stop R112,
42_byte_shift R120, R121, 43_ack R140 to R142). -/
def Obligations.DriveStatesFollowTheStepLists : Prop := ∀ s t : State, Sound s → step s = .next t → DrivesSound t

/-- Every step keeps the trace ending with exactly what the step lists of WRITE and READ have performed so far
(44_transactions R161, R162, 00_scope R9). -/
def Obligations.TraceFollowsTheTransaction : Prop :=
  ∀ s t : State, Sound s → TraceSound s → step s = .next t → TraceSound t

/-- The state after reset meets every invariant (10_state R40). It rests on the model's choices of logs 1 to 4 for the
values the spec leaves unspecified. -/
def Obligations.ResetMeetsTheInvariants : Prop := Sound State.reset ∧ TraceSound State.reset

/-- No run faults: from a state that meets the invariants a step answers a next state, or refuses a command offered in
IDLE (60_exceptions R194, 30_encoding R79). -/
def Obligations.NoStepFaults : Prop :=
  ∀ s : State, Sound s →
    (∃ t, step s = .next t) ∨ (step s = .refused .illegalCommand ∧ s.phase = 0#3 ∧ s.now.cmdValid = true)

/-- No rule reads a register whose reset value is unspecified before it has written it: of two states that agree on
everything else, a step of the one is answered by a step of the other, and they agree again. So the values log 2 names
steer nothing and show nowhere, and `fault Unwritten` has no occasion (10_state R39, R40, 60_exceptions R194). -/
def Obligations.UnspecifiedResetValuesAreNeverRead : Prop :=
  ∀ s t s' : State, Sound s → SameReadable s t → step s = .next s' → ∃ t', step t = .next t' ∧ SameReadable s' t'

/-- No step changes a parameter (00_scope R6). -/
def Obligations.ParametersAreConstant : Prop := ∀ s t : State, step s = .next t → t.par = s.par

/-! ### Whole commands -/

/-- Every step of a command that is not a waiting poll brings it nearer its end, and a waiting poll leaves it where it is
(40_delay_and_lines R90, 44_transactions R161, R162, R165). -/
def Obligations.EveryStepButAWaitMakesProgress : Prop :=
  ∀ s t : State, Sound s → s.phase ≠ 0#3 → s.now.rst = false → step s = .next t →
    (Waiting s → stepsLeft t = stepsLeft s) ∧ (¬ Waiting s → stepsLeft t < stepsLeft s)

/-- A command ends if the timer keeps advancing and nobody resets the block: within the bound the block is idle again,
with `DONE` set and `BUSY` clear (44_transactions R165, R168, 70_reset_and_hazards R216). -/
def Obligations.CommandEndsWhileTheTimerAdvances : Prop :=
  ∀ (s : State) (ins rest : List Inputs), Sound s → s.phase ≠ 0#3 → s.dlyWait = 0#1 → s.env = ins ++ rest →
    (∀ x ∈ ins, Prompt s.par x) → stepsLeft s ≤ ins.length →
    ∃ n t, n ≤ stepsLeft s ∧ steps n s = .next t ∧ t.phase = 0#3 ∧ t.busy = 0#1 ∧ t.done = 1#1

/-- What a completed command has put on the wire: a successful WRITE or READ the whole transaction for its `LEN` bytes; a
failed command the address phase and STOP, or, for a WRITE only, the payload bytes up to the one not acknowledged and
STOP. Exactly one STOP, last, and both lines released (44_transactions R161, R162, R165, R166, R169). -/
def Obligations.CompletedCommandHasTheSpecsTrace : Prop :=
  ∀ s : State, Sound s → TraceSound s → s.now.rst = false → s.phase = 4#3 → s.due = .complete →
    s.drv s.sclRef = .rel ∧ s.drv s.sdaRef = .rel ∧
    ∃ t, step s = .next t ∧
      (s.result = .success → s.rw = 0#1 →
        writeTrace s.sclRef s.sdaRef s.buf s.addrByte (bytesFrom s.mem s.buf s.len) <:+ t.trace) ∧
      (s.result = .success → s.rw = 1#1 →
        readTrace s.sclRef s.sdaRef s.buf s.addrByte (bytesFrom s.mem s.buf s.len) <:+ t.trace) ∧
      (s.result = .ackFailure →
        addressFailTrace s.sclRef s.sdaRef s.addrByte <:+ t.trace ∨
        (s.rw = 0#1 ∧ ∃ k, k < s.len ∧
          writeFailTrace s.sclRef s.sdaRef s.buf s.addrByte (bytesFrom s.mem s.buf k)
            (readByte s.mem (s.buf + k)) <:+ t.trace))

/-- If the timer stops below the threshold the delay waits for ever: after any number of steps the core is at the same
action with the same `TCNT`, no event was emitted, and the command has not completed (60_exceptions R200). -/
def Obligations.StalledTimerHoldsTheDelay : Prop :=
  ∀ (s : State) (ins rest : List Inputs), Sound s → s.phase ≠ 0#3 → Waiting s → s.env = ins ++ rest →
    (∀ x ∈ ins, Stalled x) →
    ∃ t, steps ins.length s = .next t ∧ Waiting t ∧ t.tcnt = s.tcnt ∧ t.trace = s.trace ∧ t.phase = s.phase ∧
      t.uopWord = s.uopWord ∧ t.upos = s.upos ∧ t.status = s.status

/-- A delay once begun ends only when its condition holds, unless the block is reset: a step of a wait emits nothing and
keeps `PHASE`, `STATUS` and the micro-op, and it leaves the wait exactly when `TCNT` is at least `P_HALF_TICKS`, whatever
the environment does (40_delay_and_lines R96, R90). -/
def Obligations.DelayEndsOnlyAtTheThreshold : Prop :=
  ∀ s t : State, Sound s → s.now.rst = false → s.phase ≠ 0#3 → s.dlyWait = 1#1 → step s = .next t →
    t.trace = s.trace ∧ t.phase = s.phase ∧ t.status = s.status ∧ t.uopWord = s.uopWord ∧ t.ackbit = s.ackbit ∧
      (s.par.halfTicks ≤ s.tcnt → t.dlyWait = 0#1) ∧
      (s.tcnt < s.par.halfTicks → t.dlyWait = 1#1 ∧ t.upos = s.upos ∧ t.due = s.due ∧ SameEngines s t)

/-- The line actions, samples and delays the machine performs (70_reset_and_hazards R219). Of each compound micro-op,
run from its first action to its end: the trace grows by exactly the table's numbers. Of each command, at its
`Complete`: since its START the trace has grown by `24 + 18n` delays where all `n` bytes passed, 24 where the address
was not acknowledged, `24 + 18(i+1)` where payload byte `i` was not. -/
def Obligations.DelaysAreCountedAsTheSpecSays : Prop :=
  (∀ (i : Instr) (s : State) (ins rest : List Inputs), compound i = true → AtStartOf i s ins rest →
    ins.length = tableActions i + 2 * tableDelays i →
    ∃ t es, steps ins.length s = .next t ∧ EndedAfter s t rest es ∧ lineActions es = tableActions i ∧
      samples es = tableSamples i ∧ delays es = tableDelays i) ∧
  (∀ (base : List Event) (s : State), Sound s → TraceSince base s → s.now.rst = false → s.phase = 4#3 →
    s.due = .complete →
    ∃ t es, step s = .next t ∧ t.trace = base ++ es ∧
      (s.result = .success → delays es = 24 + 18 * s.len) ∧
      (s.result = .ackFailure →
        (es = addressFailTrace s.sclRef s.sdaRef s.addrByte ∧ delays es = 24) ∨
        (s.rw = 0#1 ∧ ∃ k, k < s.len ∧ delays es = 24 + 18 * (k + 1) ∧
          es = writeFailTrace s.sclRef s.sdaRef s.buf s.addrByte (bytesFrom s.mem s.buf k)
            (readByte s.mem (s.buf + k)))))

/-- A command emits exactly its trace and nothing else, from accept to `Complete`: whatever `base` was emitted before it,
every step of it without reset keeps the trace at `base` followed by what the step lists have performed so far, starting
with the accepting step; and `Complete` leaves it at `base` followed by the whole transaction
(44_transactions R161, R162, R166, R169, 20_memory R60, 00_scope R9). -/
def Obligations.CommandEmitsExactlyItsTrace : Prop :=
  (∀ s : State, s.phase = 0#3 → TraceSince s.trace s) ∧
  (∀ (base : List Event) (s t : State), Sound s → TraceSince base s → s.now.rst = false → step s = .next t →
    t.phase ≠ 0#3 → TraceSince base t) ∧
  (∀ (base : List Event) (s : State), Sound s → TraceSince base s → s.now.rst = false → s.phase = 4#3 →
    s.due = .complete →
    ∃ t, step s = .next t ∧
      (s.result = .success → s.rw = 0#1 → t.trace =
        base ++ writeTrace s.sclRef s.sdaRef s.buf s.addrByte (bytesFrom s.mem s.buf s.len)) ∧
      (s.result = .success → s.rw = 1#1 → t.trace =
        base ++ readTrace s.sclRef s.sdaRef s.buf s.addrByte (bytesFrom s.mem s.buf s.len)) ∧
      (s.result = .ackFailure →
        t.trace = base ++ addressFailTrace s.sclRef s.sdaRef s.addrByte ∨
        (s.rw = 0#1 ∧ ∃ k, k < s.len ∧ t.trace = base ++
          writeFailTrace s.sclRef s.sdaRef s.buf s.addrByte (bytesFrom s.mem s.buf k) (readByte s.mem (s.buf + k)))))
end

