-- ==== Sys2Proof/Laws/Memory.lean ====
section
/-! SUPPORT. Buffer memory and the pins driven low: reads after writes, and that every operation keeps the canonical
form (20_memory R56, R57). -/

namespace Sys2Proof.Machine

/-! ### Buffer memory -/

theorem Memory.wfFrom_mono {lo lo' : Nat} {m : List Host.Cell} (h : Memory.wfFrom lo m = true) (hle : lo' ≤ lo) :
    Memory.wfFrom lo' m = true := by
  cases m with
  | nil => rfl
  | cons c r =>
    simp only [Memory.wfFrom, Bool.and_eq_true, decide_eq_true_eq] at h ⊢
    exact ⟨⟨le_trans hle h.1.1, h.1.2⟩, h.2⟩

/-- Below its lowest address a canonical memory reads as unlisted. -/
theorem readByte_below {lo a : Nat} {m : List Host.Cell} (h : Memory.wfFrom lo m = true) (ha : a < lo) :
    readByte m a = unlistedByte := by
  induction m generalizing lo with
  | nil => rfl
  | cons c r ih =>
    simp only [Memory.wfFrom, Bool.and_eq_true, decide_eq_true_eq] at h
    rw [readByte, if_neg (by omega)]
    exact ih h.2 (by omega)

/-- A write keeps the canonical form. -/
theorem writeByte_wfFrom {lo a : Nat} {v : Byte} {m : List Host.Cell} (h : Memory.wfFrom lo m = true) (ha : lo ≤ a) :
    Memory.wfFrom lo (writeByte m a v) = true := by
  induction m generalizing lo with
  | nil =>
    by_cases hv : v = unlistedByte <;> simp [writeByte, Memory.wfFrom, hv, ha]
  | cons c r ih =>
    simp only [Memory.wfFrom, Bool.and_eq_true, decide_eq_true_eq, bne_iff_ne, ne_eq] at h
    obtain ⟨⟨hlo, hne⟩, hr⟩ := h
    simp only [writeByte]
    split_ifs with h1 h2 h3 h4
    · simp [Memory.wfFrom, hlo, hne, hr]
    · simp only [Memory.wfFrom, Bool.and_eq_true, decide_eq_true_eq, bne_iff_ne, ne_eq]
      exact ⟨⟨ha, h2⟩, ⟨by omega, hne⟩, hr⟩
    · exact Memory.wfFrom_mono hr (by omega)
    · simp only [Memory.wfFrom, Bool.and_eq_true, decide_eq_true_eq, bne_iff_ne, ne_eq]
      exact ⟨⟨ha, h4⟩, h3 ▸ hr⟩
    · simp only [Memory.wfFrom, Bool.and_eq_true, decide_eq_true_eq, bne_iff_ne, ne_eq]
      exact ⟨⟨hlo, hne⟩, ih hr (by omega)⟩

/-- A write keeps the canonical form of the whole memory. -/
theorem writeByte_wf {a : Nat} {v : Byte} {m : List Host.Cell} (h : Memory.wf m = true) :
    Memory.wf (writeByte m a v) = true :=
  writeByte_wfFrom h (Nat.zero_le a)

/-- After a write, the address written reads the value and every other address reads as before. -/
theorem readByte_writeByte {lo a b : Nat} {v : Byte} {m : List Host.Cell} (h : Memory.wfFrom lo m = true) :
    readByte (writeByte m a v) b = if b = a then v else readByte m b := by
  induction m generalizing lo with
  | nil =>
    by_cases hv : v = unlistedByte <;> by_cases hb : a = b <;> simp [writeByte, readByte, hv, hb, eq_comm]
  | cons c r ih =>
    obtain ⟨k, u⟩ := c
    simp only [Memory.wfFrom, Bool.and_eq_true, decide_eq_true_eq] at h
    obtain ⟨⟨hlo, hne⟩, hr⟩ := h
    have below : ∀ x, x < k + 1 → readByte r x = unlistedByte := fun x hx => readByte_below hr hx
    rcases Nat.lt_trichotomy a k with hak | rfl | hak
    · have hb : b = a → readByte ((k, u) :: r) b = unlistedByte := by
        rintro rfl
        rw [readByte, if_neg (by omega)]
        exact below b (by omega)
      by_cases hv : v = unlistedByte
      · rw [writeByte, if_pos hak, if_pos hv]
        split_ifs with h
        · rw [hb h, hv]
        · rfl
      · rw [writeByte, if_pos hak, if_neg hv, readByte]
        by_cases h : a = b
        · rw [if_pos h, if_pos h.symm]
        · rw [if_neg h, if_neg (Ne.symm h)]
    · by_cases hv : v = unlistedByte
      · rw [writeByte, if_neg (by omega), if_pos rfl, if_pos hv, readByte]
        by_cases h : a = b
        · subst h; rw [if_pos rfl, hv]; exact below a (by omega)
        · rw [if_neg (Ne.symm h), if_neg h]
      · rw [writeByte, if_neg (by omega), if_pos rfl, if_neg hv, readByte, readByte]
        by_cases h : a = b
        · rw [if_pos h, if_pos h.symm]
        · rw [if_neg h, if_neg (Ne.symm h), if_neg h]
    · rw [writeByte, if_neg (by omega), if_neg (by omega), readByte, readByte, ih hr]
      by_cases h : k = b
      · rw [if_pos h, if_pos h, if_neg (by omega)]
      · rw [if_neg h, if_neg h]

/-- A write inside the address space stays inside it. -/
theorem writeByte_inSpace {p : Params} {a : Nat} {v : Byte} {m : List Host.Cell}
    (h : Memory.inSpace p m = true) (ha : a < 2 ^ p.addrWidth) : Memory.inSpace p (writeByte m a v) = true := by
  induction m with
  | nil => by_cases hv : v = unlistedByte <;> simp [writeByte, Memory.inSpace, hv, ha]
  | cons c r ih =>
    simp only [Memory.inSpace, List.all_cons, Bool.and_eq_true, decide_eq_true_eq] at h ih ⊢
    simp only [writeByte]
    split_ifs
    · simp [h]
    · simp [h, ha]
    · exact h.2
    · simp [h, ha]
    · simp only [List.all_cons, Bool.and_eq_true, decide_eq_true_eq]
      exact ⟨h.1, ih h.2⟩

/-- The host's writes of a step keep the canonical form. -/
theorem hostWrites_wf {s : State} {l : List Host.Cell} {m : List Host.Cell} (h : Memory.wf m = true) :
    Memory.wf (l.foldl (hostWrite s) m) = true := by
  induction l generalizing m with
  | nil => exact h
  | cons c r ih =>
    refine ih ?_
    unfold hostWrite
    split
    · exact writeByte_wf h
    · exact h

/-- The host's writes of a step stay inside the address space. -/
theorem hostWrites_inSpace {s : State} {l : List Host.Cell} {m : List Host.Cell}
    (h : Memory.inSpace s.par m = true) : Memory.inSpace s.par (l.foldl (hostWrite s) m) = true := by
  induction l generalizing m with
  | nil => exact h
  | cons c r ih =>
    refine ih ?_
    unfold hostWrite
    split
    · exact writeByte_inSpace h (Nat.mod_lt _ (Nat.two_pow_pos _))
    · exact h

/-- An address the host may not write now reads as before its writes. -/
theorem readByte_hostWrites {s : State} {l : List Host.Cell} {m : List Host.Cell} {a : Nat}
    (h : Memory.wf m = true) (ha : hostMayWrite s a = false) :
    readByte (l.foldl (hostWrite s) m) a = readByte m a := by
  induction l generalizing m with
  | nil => rfl
  | cons c r ih =>
    by_cases hc : hostMayWrite s (onPort s.par.addrWidth c.1) = true
    · have hne : a ≠ onPort s.par.addrWidth c.1 := by
        rintro rfl
        rw [ha] at hc
        exact Bool.false_ne_true hc
      rw [List.foldl_cons, hostWrite, if_pos hc, ih (writeByte_wf h), readByte_writeByte h, if_neg hne]
    · rw [List.foldl_cons, hostWrite, if_neg hc, ih h]

/-- Buffer memory right after reset is canonical. -/
theorem reset_mem_wf : Memory.wf State.reset.mem = true := rfl

/-! ### The pins driven low -/

@[simp] theorem drivenLow_pinErase (l : List Nat) (r x : Nat) :
    drivenLow (pinErase r l) x = (x != r && drivenLow l x) := by
  induction l with
  | nil => simp [drivenLow, pinErase]
  | cons k l ih =>
    simp only [drivenLow, pinErase] at ih ⊢
    by_cases hk : k = r <;> by_cases hx : x = k <;> simp_all

@[simp] theorem drivenLow_pinInsert (l : List Nat) (r x : Nat) :
    drivenLow (pinInsert r l) x = (x == r || drivenLow l x) := by
  induction l with
  | nil => rfl
  | cons k l ih =>
    simp only [drivenLow, pinInsert] at ih ⊢
    split_ifs with h1 h2
    · rw [List.contains_cons]
    · subst h2; rw [List.contains_cons]; cases x == r <;> rfl
    · rw [List.contains_cons, List.contains_cons, ih]
      cases x == k <;> cases x == r <;> rfl

/-- One action on a pin sets that pin's drive state and no other. -/
theorem drivenLow_setDrive (l : List Nat) (r x : Nat) (d : Drive) :
    drivenLow (setDrive r d l) x = if x = r then (d == .low) else drivenLow l x := by
  cases d <;> by_cases h : x = r <;> simp [setDrive, h]

theorem Pins.wfFrom_mono {lo lo' : Nat} {l : List Nat} (h : Pins.wfFrom lo l = true) (hle : lo' ≤ lo) :
    Pins.wfFrom lo' l = true := by
  cases l with
  | nil => rfl
  | cons c r =>
    simp only [Pins.wfFrom, Bool.and_eq_true, decide_eq_true_eq] at h ⊢
    exact ⟨le_trans hle h.1, h.2⟩

theorem pinErase_wfFrom {lo r : Nat} {l : List Nat} (h : Pins.wfFrom lo l = true) :
    Pins.wfFrom lo (pinErase r l) = true := by
  induction l generalizing lo with
  | nil => rfl
  | cons k l ih =>
    simp only [Pins.wfFrom, Bool.and_eq_true, decide_eq_true_eq] at h
    unfold pinErase at ih ⊢
    rw [List.filter_cons]
    split
    · simp only [Pins.wfFrom, Bool.and_eq_true, decide_eq_true_eq]
      exact ⟨h.1, ih h.2⟩
    · exact Pins.wfFrom_mono (ih h.2) (by omega)

theorem pinInsert_wfFrom {lo r : Nat} {l : List Nat} (h : Pins.wfFrom lo l = true) (hr : lo ≤ r) :
    Pins.wfFrom lo (pinInsert r l) = true := by
  induction l generalizing lo with
  | nil => simp [pinInsert, Pins.wfFrom, hr]
  | cons k l ih =>
    simp only [Pins.wfFrom, Bool.and_eq_true, decide_eq_true_eq] at h
    unfold pinInsert
    split_ifs with h1 h2
    · simp only [Pins.wfFrom, Bool.and_eq_true, decide_eq_true_eq]
      exact ⟨hr, by omega, h.2⟩
    · simp [Pins.wfFrom, h.1, h.2]
    · simp only [Pins.wfFrom, Bool.and_eq_true, decide_eq_true_eq]
      exact ⟨h.1, ih h.2 (by omega)⟩

/-- One action on a pin keeps the canonical form. -/
theorem setDrive_wf {r : Nat} {d : Drive} {l : List Nat} (h : Pins.wf l = true) : Pins.wf (setDrive r d l) = true := by
  cases d with
  | rel => exact pinErase_wfFrom h
  | low => exact pinInsert_wfFrom h (Nat.zero_le r)

/-- Which pins are driven low after an action on one pin. -/
theorem mem_setDrive {r x : Nat} {d : Drive} {l : List Nat} (h : x ∈ setDrive r d l) : x = r ∨ x ∈ l := by
  have := drivenLow_setDrive l r x d
  by_cases hx : x = r
  · exact .inl hx
  · rw [if_neg hx] at this
    simp only [drivenLow, List.contains_eq_mem] at this
    exact .inr (by simpa [h] using this.symm)

/-- Other agents' pin actions keep the canonical form. -/
theorem pinActs_wf {s : State} {c : List (Nat × Drive)} {l : List Nat} (h : Pins.wf l = true) :
    Pins.wf (c.foldl (otherPinAct s) l) = true := by
  induction c generalizing l with
  | nil => exact h
  | cons x c ih =>
    refine ih ?_
    unfold otherPinAct
    split
    · exact setDrive_wf h
    · exact h

/-- A pin other agents may not act on now keeps its drive state. -/
theorem drivenLow_pinActs {s : State} {c : List (Nat × Drive)} {l : List Nat} {r : Nat}
    (hr : othersMayDrive s r = false) : drivenLow (c.foldl (otherPinAct s) l) r = drivenLow l r := by
  induction c generalizing l with
  | nil => rfl
  | cons x c ih =>
    by_cases hx : othersMayDrive s (onPort s.par.pinWidth x.1) = true
    · have hne : r ≠ onPort s.par.pinWidth x.1 := by
        rintro rfl
        rw [hr] at hx
        exact Bool.false_ne_true hx
      rw [List.foldl_cons, otherPinAct, if_pos hx, ih, drivenLow_setDrive, if_neg hne]
    · rw [List.foldl_cons, otherPinAct, if_neg hx, ih]

end Sys2Proof.Machine
end

