-- ==== Sys2Proof/Laws/State.lean ====
section
/-! SUPPORT. For each update of the state, what it does to each field: one lemma a field, so that no proof unfolds a
record update. -/

namespace Sys2Proof.Machine

/-! ### State.noAction -/

@[simp] theorem State.noAction_par (s : State) : s.noAction.par = s.par := rfl
@[simp] theorem State.noAction_cmd (s : State) : s.noAction.cmd = s.cmd := rfl
@[simp] theorem State.noAction_len (s : State) : s.noAction.len = s.len := rfl
@[simp] theorem State.noAction_buf (s : State) : s.noAction.buf = s.buf := rfl
@[simp] theorem State.noAction_sclRef (s : State) : s.noAction.sclRef = s.sclRef := rfl
@[simp] theorem State.noAction_sdaRef (s : State) : s.noAction.sdaRef = s.sdaRef := rfl
@[simp] theorem State.noAction_status (s : State) : s.noAction.status = s.status := rfl
@[simp] theorem State.noAction_phase (s : State) : s.noAction.phase = s.phase := rfl
@[simp] theorem State.noAction_idx (s : State) : s.noAction.idx = s.idx := rfl
@[simp] theorem State.noAction_uop (s : State) : s.noAction.uop = s.uop := rfl
@[simp] theorem State.noAction_uopArg (s : State) : s.noAction.uopArg = s.uopArg := rfl
@[simp] theorem State.noAction_upos (s : State) : s.noAction.upos = s.upos := rfl
@[simp] theorem State.noAction_sr (s : State) : s.noAction.sr = s.sr := rfl
@[simp] theorem State.noAction_bitcnt (s : State) : s.noAction.bitcnt = s.bitcnt := rfl
@[simp] theorem State.noAction_ackbit (s : State) : s.noAction.ackbit = s.ackbit := rfl
@[simp] theorem State.noAction_dlyWait (s : State) : s.noAction.dlyWait = s.dlyWait := rfl
@[simp] theorem State.noAction_due (s : State) : s.noAction.due = s.due := rfl
@[simp] theorem State.noAction_result (s : State) : s.noAction.result = s.result := rfl
@[simp] theorem State.noAction_out (s : State) : s.noAction.out = s.out.none := rfl
@[simp] theorem State.noAction_drvLow (s : State) : s.noAction.drvLow = s.drvLow := rfl
@[simp] theorem State.noAction_tcnt (s : State) : s.noAction.tcnt = s.tcnt := rfl
@[simp] theorem State.noAction_mem (s : State) : s.noAction.mem = s.mem := rfl
@[simp] theorem State.noAction_env (s : State) : s.noAction.env = s.env := rfl
@[simp] theorem State.noAction_clock (s : State) : s.noAction.clock = s.clock := rfl
@[simp] theorem State.noAction_trace (s : State) : s.noAction.trace = s.trace := rfl

/-! ### State.nextPos -/

@[simp] theorem State.nextPos_par (s : State) : s.nextPos.par = s.par := rfl
@[simp] theorem State.nextPos_cmd (s : State) : s.nextPos.cmd = s.cmd := rfl
@[simp] theorem State.nextPos_len (s : State) : s.nextPos.len = s.len := rfl
@[simp] theorem State.nextPos_buf (s : State) : s.nextPos.buf = s.buf := rfl
@[simp] theorem State.nextPos_sclRef (s : State) : s.nextPos.sclRef = s.sclRef := rfl
@[simp] theorem State.nextPos_sdaRef (s : State) : s.nextPos.sdaRef = s.sdaRef := rfl
@[simp] theorem State.nextPos_status (s : State) : s.nextPos.status = s.status := rfl
@[simp] theorem State.nextPos_phase (s : State) : s.nextPos.phase = s.phase := rfl
@[simp] theorem State.nextPos_idx (s : State) : s.nextPos.idx = s.idx := rfl
@[simp] theorem State.nextPos_uop (s : State) : s.nextPos.uop = s.uop := rfl
@[simp] theorem State.nextPos_uopArg (s : State) : s.nextPos.uopArg = s.uopArg := rfl
@[simp] theorem State.nextPos_upos (s : State) : s.nextPos.upos = s.upos + 1 := rfl
@[simp] theorem State.nextPos_sr (s : State) : s.nextPos.sr = s.sr := rfl
@[simp] theorem State.nextPos_bitcnt (s : State) : s.nextPos.bitcnt = s.bitcnt := rfl
@[simp] theorem State.nextPos_ackbit (s : State) : s.nextPos.ackbit = s.ackbit := rfl
@[simp] theorem State.nextPos_dlyWait (s : State) : s.nextPos.dlyWait = s.dlyWait := rfl
@[simp] theorem State.nextPos_due (s : State) : s.nextPos.due = s.due := rfl
@[simp] theorem State.nextPos_result (s : State) : s.nextPos.result = s.result := rfl
@[simp] theorem State.nextPos_out (s : State) : s.nextPos.out = s.out := rfl
@[simp] theorem State.nextPos_drvLow (s : State) : s.nextPos.drvLow = s.drvLow := rfl
@[simp] theorem State.nextPos_tcnt (s : State) : s.nextPos.tcnt = s.tcnt := rfl
@[simp] theorem State.nextPos_mem (s : State) : s.nextPos.mem = s.mem := rfl
@[simp] theorem State.nextPos_env (s : State) : s.nextPos.env = s.env := rfl
@[simp] theorem State.nextPos_clock (s : State) : s.nextPos.clock = s.clock := rfl
@[simp] theorem State.nextPos_trace (s : State) : s.nextPos.trace = s.trace := rfl

/-! ### State.endUop -/

@[simp] theorem State.endUop_par (s : State) : s.endUop.par = s.par := rfl
@[simp] theorem State.endUop_cmd (s : State) : s.endUop.cmd = s.cmd := rfl
@[simp] theorem State.endUop_len (s : State) : s.endUop.len = s.len := rfl
@[simp] theorem State.endUop_buf (s : State) : s.endUop.buf = s.buf := rfl
@[simp] theorem State.endUop_sclRef (s : State) : s.endUop.sclRef = s.sclRef := rfl
@[simp] theorem State.endUop_sdaRef (s : State) : s.endUop.sdaRef = s.sdaRef := rfl
@[simp] theorem State.endUop_status (s : State) : s.endUop.status = s.status := rfl
@[simp] theorem State.endUop_phase (s : State) : s.endUop.phase = s.phase := rfl
@[simp] theorem State.endUop_idx (s : State) : s.endUop.idx = s.idx := rfl
@[simp] theorem State.endUop_uop (s : State) : s.endUop.uop = s.uop := rfl
@[simp] theorem State.endUop_uopArg (s : State) : s.endUop.uopArg = s.uopArg := rfl
@[simp] theorem State.endUop_upos (s : State) : s.endUop.upos = 0 := rfl
@[simp] theorem State.endUop_sr (s : State) : s.endUop.sr = s.sr := rfl
@[simp] theorem State.endUop_bitcnt (s : State) : s.endUop.bitcnt = s.bitcnt := rfl
@[simp] theorem State.endUop_ackbit (s : State) : s.endUop.ackbit = s.ackbit := rfl
@[simp] theorem State.endUop_dlyWait (s : State) : s.endUop.dlyWait = s.dlyWait := rfl
@[simp] theorem State.endUop_due (s : State) : s.endUop.due = .ended := rfl
@[simp] theorem State.endUop_result (s : State) : s.endUop.result = s.result := rfl
@[simp] theorem State.endUop_out (s : State) : s.endUop.out = s.out := rfl
@[simp] theorem State.endUop_drvLow (s : State) : s.endUop.drvLow = s.drvLow := rfl
@[simp] theorem State.endUop_tcnt (s : State) : s.endUop.tcnt = s.tcnt := rfl
@[simp] theorem State.endUop_mem (s : State) : s.endUop.mem = s.mem := rfl
@[simp] theorem State.endUop_env (s : State) : s.endUop.env = s.env := rfl
@[simp] theorem State.endUop_clock (s : State) : s.endUop.clock = s.clock := rfl
@[simp] theorem State.endUop_trace (s : State) : s.endUop.trace = s.trace := rfl

/-! ### State.issue -/

@[simp] theorem State.issue_par (i : Instr) (s : State) : (s.issue i).par = s.par := rfl
@[simp] theorem State.issue_cmd (i : Instr) (s : State) : (s.issue i).cmd = s.cmd := rfl
@[simp] theorem State.issue_len (i : Instr) (s : State) : (s.issue i).len = s.len := rfl
@[simp] theorem State.issue_buf (i : Instr) (s : State) : (s.issue i).buf = s.buf := rfl
@[simp] theorem State.issue_sclRef (i : Instr) (s : State) : (s.issue i).sclRef = s.sclRef := rfl
@[simp] theorem State.issue_sdaRef (i : Instr) (s : State) : (s.issue i).sdaRef = s.sdaRef := rfl
@[simp] theorem State.issue_status (i : Instr) (s : State) : (s.issue i).status = s.status := rfl
@[simp] theorem State.issue_phase (i : Instr) (s : State) : (s.issue i).phase = s.phase := rfl
@[simp] theorem State.issue_idx (i : Instr) (s : State) : (s.issue i).idx = s.idx := rfl
@[simp] theorem State.issue_uop (i : Instr) (s : State) : (s.issue i).uop = (encode i).extractLsb' 12 4 := rfl
@[simp] theorem State.issue_uopArg (i : Instr) (s : State) : (s.issue i).uopArg = (encode i).extractLsb' 0 12 := rfl
@[simp] theorem State.issue_upos (i : Instr) (s : State) : (s.issue i).upos = 0 := rfl
@[simp] theorem State.issue_sr (i : Instr) (s : State) : (s.issue i).sr = s.sr := rfl
@[simp] theorem State.issue_bitcnt (i : Instr) (s : State) : (s.issue i).bitcnt = s.bitcnt := rfl
@[simp] theorem State.issue_ackbit (i : Instr) (s : State) : (s.issue i).ackbit = s.ackbit := rfl
@[simp] theorem State.issue_dlyWait (i : Instr) (s : State) : (s.issue i).dlyWait = s.dlyWait := rfl
@[simp] theorem State.issue_due (i : Instr) (s : State) : (s.issue i).due = .uop := rfl
@[simp] theorem State.issue_result (i : Instr) (s : State) : (s.issue i).result = s.result := rfl
@[simp] theorem State.issue_out (i : Instr) (s : State) : (s.issue i).out = s.out := rfl
@[simp] theorem State.issue_drvLow (i : Instr) (s : State) : (s.issue i).drvLow = s.drvLow := rfl
@[simp] theorem State.issue_tcnt (i : Instr) (s : State) : (s.issue i).tcnt = s.tcnt := rfl
@[simp] theorem State.issue_mem (i : Instr) (s : State) : (s.issue i).mem = s.mem := rfl
@[simp] theorem State.issue_env (i : Instr) (s : State) : (s.issue i).env = s.env := rfl
@[simp] theorem State.issue_clock (i : Instr) (s : State) : (s.issue i).clock = s.clock := rfl
@[simp] theorem State.issue_trace (i : Instr) (s : State) : (s.issue i).trace = s.trace := rfl

/-! ### setLineHigh -/

@[simp] theorem setLineHigh_par (l : Line) (s : State) : (setLineHigh l s).par = s.par := rfl
@[simp] theorem setLineHigh_cmd (l : Line) (s : State) : (setLineHigh l s).cmd = s.cmd := rfl
@[simp] theorem setLineHigh_len (l : Line) (s : State) : (setLineHigh l s).len = s.len := rfl
@[simp] theorem setLineHigh_buf (l : Line) (s : State) : (setLineHigh l s).buf = s.buf := rfl
@[simp] theorem setLineHigh_sclRef (l : Line) (s : State) : (setLineHigh l s).sclRef = s.sclRef := rfl
@[simp] theorem setLineHigh_sdaRef (l : Line) (s : State) : (setLineHigh l s).sdaRef = s.sdaRef := rfl
@[simp] theorem setLineHigh_status (l : Line) (s : State) : (setLineHigh l s).status = s.status := rfl
@[simp] theorem setLineHigh_phase (l : Line) (s : State) : (setLineHigh l s).phase = s.phase := rfl
@[simp] theorem setLineHigh_idx (l : Line) (s : State) : (setLineHigh l s).idx = s.idx := rfl
@[simp] theorem setLineHigh_uop (l : Line) (s : State) : (setLineHigh l s).uop = s.uop := rfl
@[simp] theorem setLineHigh_uopArg (l : Line) (s : State) : (setLineHigh l s).uopArg = s.uopArg := rfl
@[simp] theorem setLineHigh_upos (l : Line) (s : State) : (setLineHigh l s).upos = s.upos := rfl
@[simp] theorem setLineHigh_sr (l : Line) (s : State) : (setLineHigh l s).sr = s.sr := rfl
@[simp] theorem setLineHigh_bitcnt (l : Line) (s : State) : (setLineHigh l s).bitcnt = s.bitcnt := rfl
@[simp] theorem setLineHigh_ackbit (l : Line) (s : State) : (setLineHigh l s).ackbit = s.ackbit := rfl
@[simp] theorem setLineHigh_dlyWait (l : Line) (s : State) : (setLineHigh l s).dlyWait = s.dlyWait := rfl
@[simp] theorem setLineHigh_due (l : Line) (s : State) : (setLineHigh l s).due = s.due := rfl
@[simp] theorem setLineHigh_result (l : Line) (s : State) : (setLineHigh l s).result = s.result := rfl
@[simp] theorem setLineHigh_out (l : Line) (s : State) : (setLineHigh l s).out = s.out.gpio 0b01 (s.lineRef l) := rfl
@[simp] theorem setLineHigh_drvLow (l : Line) (s : State) : (setLineHigh l s).drvLow = setDrive (s.lineRef l) .rel s.drvLow := rfl
@[simp] theorem setLineHigh_tcnt (l : Line) (s : State) : (setLineHigh l s).tcnt = s.tcnt := rfl
@[simp] theorem setLineHigh_mem (l : Line) (s : State) : (setLineHigh l s).mem = s.mem := rfl
@[simp] theorem setLineHigh_env (l : Line) (s : State) : (setLineHigh l s).env = s.env := rfl
@[simp] theorem setLineHigh_clock (l : Line) (s : State) : (setLineHigh l s).clock = s.clock := rfl
@[simp] theorem setLineHigh_trace (l : Line) (s : State) : (setLineHigh l s).trace = s.trace ++ [.high (s.lineRef l)] := rfl

/-! ### setLineLow -/

@[simp] theorem setLineLow_par (l : Line) (s : State) : (setLineLow l s).par = s.par := rfl
@[simp] theorem setLineLow_cmd (l : Line) (s : State) : (setLineLow l s).cmd = s.cmd := rfl
@[simp] theorem setLineLow_len (l : Line) (s : State) : (setLineLow l s).len = s.len := rfl
@[simp] theorem setLineLow_buf (l : Line) (s : State) : (setLineLow l s).buf = s.buf := rfl
@[simp] theorem setLineLow_sclRef (l : Line) (s : State) : (setLineLow l s).sclRef = s.sclRef := rfl
@[simp] theorem setLineLow_sdaRef (l : Line) (s : State) : (setLineLow l s).sdaRef = s.sdaRef := rfl
@[simp] theorem setLineLow_status (l : Line) (s : State) : (setLineLow l s).status = s.status := rfl
@[simp] theorem setLineLow_phase (l : Line) (s : State) : (setLineLow l s).phase = s.phase := rfl
@[simp] theorem setLineLow_idx (l : Line) (s : State) : (setLineLow l s).idx = s.idx := rfl
@[simp] theorem setLineLow_uop (l : Line) (s : State) : (setLineLow l s).uop = s.uop := rfl
@[simp] theorem setLineLow_uopArg (l : Line) (s : State) : (setLineLow l s).uopArg = s.uopArg := rfl
@[simp] theorem setLineLow_upos (l : Line) (s : State) : (setLineLow l s).upos = s.upos := rfl
@[simp] theorem setLineLow_sr (l : Line) (s : State) : (setLineLow l s).sr = s.sr := rfl
@[simp] theorem setLineLow_bitcnt (l : Line) (s : State) : (setLineLow l s).bitcnt = s.bitcnt := rfl
@[simp] theorem setLineLow_ackbit (l : Line) (s : State) : (setLineLow l s).ackbit = s.ackbit := rfl
@[simp] theorem setLineLow_dlyWait (l : Line) (s : State) : (setLineLow l s).dlyWait = s.dlyWait := rfl
@[simp] theorem setLineLow_due (l : Line) (s : State) : (setLineLow l s).due = s.due := rfl
@[simp] theorem setLineLow_result (l : Line) (s : State) : (setLineLow l s).result = s.result := rfl
@[simp] theorem setLineLow_out (l : Line) (s : State) : (setLineLow l s).out = s.out.gpio 0b10 (s.lineRef l) := rfl
@[simp] theorem setLineLow_drvLow (l : Line) (s : State) : (setLineLow l s).drvLow = setDrive (s.lineRef l) .low s.drvLow := rfl
@[simp] theorem setLineLow_tcnt (l : Line) (s : State) : (setLineLow l s).tcnt = s.tcnt := rfl
@[simp] theorem setLineLow_mem (l : Line) (s : State) : (setLineLow l s).mem = s.mem := rfl
@[simp] theorem setLineLow_env (l : Line) (s : State) : (setLineLow l s).env = s.env := rfl
@[simp] theorem setLineLow_clock (l : Line) (s : State) : (setLineLow l s).clock = s.clock := rfl
@[simp] theorem setLineLow_trace (l : Line) (s : State) : (setLineLow l s).trace = s.trace ++ [.low (s.lineRef l)] := rfl

/-! ### readSda -/

@[simp] theorem readSda_par (s : State) : (readSda s).par = s.par := rfl
@[simp] theorem readSda_cmd (s : State) : (readSda s).cmd = s.cmd := rfl
@[simp] theorem readSda_len (s : State) : (readSda s).len = s.len := rfl
@[simp] theorem readSda_buf (s : State) : (readSda s).buf = s.buf := rfl
@[simp] theorem readSda_sclRef (s : State) : (readSda s).sclRef = s.sclRef := rfl
@[simp] theorem readSda_sdaRef (s : State) : (readSda s).sdaRef = s.sdaRef := rfl
@[simp] theorem readSda_status (s : State) : (readSda s).status = s.status := rfl
@[simp] theorem readSda_phase (s : State) : (readSda s).phase = s.phase := rfl
@[simp] theorem readSda_idx (s : State) : (readSda s).idx = s.idx := rfl
@[simp] theorem readSda_uop (s : State) : (readSda s).uop = s.uop := rfl
@[simp] theorem readSda_uopArg (s : State) : (readSda s).uopArg = s.uopArg := rfl
@[simp] theorem readSda_upos (s : State) : (readSda s).upos = s.upos := rfl
@[simp] theorem readSda_sr (s : State) : (readSda s).sr = s.sr := rfl
@[simp] theorem readSda_bitcnt (s : State) : (readSda s).bitcnt = s.bitcnt := rfl
@[simp] theorem readSda_ackbit (s : State) : (readSda s).ackbit = s.ackbit := rfl
@[simp] theorem readSda_dlyWait (s : State) : (readSda s).dlyWait = s.dlyWait := rfl
@[simp] theorem readSda_due (s : State) : (readSda s).due = s.due := rfl
@[simp] theorem readSda_result (s : State) : (readSda s).result = s.result := rfl
@[simp] theorem readSda_out (s : State) : (readSda s).out = s.out.gpio 0b11 s.sdaRef := rfl
@[simp] theorem readSda_drvLow (s : State) : (readSda s).drvLow = s.drvLow := rfl
@[simp] theorem readSda_tcnt (s : State) : (readSda s).tcnt = s.tcnt := rfl
@[simp] theorem readSda_mem (s : State) : (readSda s).mem = s.mem := rfl
@[simp] theorem readSda_env (s : State) : (readSda s).env = s.env := rfl
@[simp] theorem readSda_clock (s : State) : (readSda s).clock = s.clock := rfl
@[simp] theorem readSda_trace (s : State) : (readSda s).trace = s.trace ++ [.sample s.sdaRef s.sdaRead] := rfl

/-! ### beginDelay -/

@[simp] theorem beginDelay_par (s : State) : (beginDelay s).par = s.par := rfl
@[simp] theorem beginDelay_cmd (s : State) : (beginDelay s).cmd = s.cmd := rfl
@[simp] theorem beginDelay_len (s : State) : (beginDelay s).len = s.len := rfl
@[simp] theorem beginDelay_buf (s : State) : (beginDelay s).buf = s.buf := rfl
@[simp] theorem beginDelay_sclRef (s : State) : (beginDelay s).sclRef = s.sclRef := rfl
@[simp] theorem beginDelay_sdaRef (s : State) : (beginDelay s).sdaRef = s.sdaRef := rfl
@[simp] theorem beginDelay_status (s : State) : (beginDelay s).status = s.status := rfl
@[simp] theorem beginDelay_phase (s : State) : (beginDelay s).phase = s.phase := rfl
@[simp] theorem beginDelay_idx (s : State) : (beginDelay s).idx = s.idx := rfl
@[simp] theorem beginDelay_uop (s : State) : (beginDelay s).uop = s.uop := rfl
@[simp] theorem beginDelay_uopArg (s : State) : (beginDelay s).uopArg = s.uopArg := rfl
@[simp] theorem beginDelay_upos (s : State) : (beginDelay s).upos = s.upos := rfl
@[simp] theorem beginDelay_sr (s : State) : (beginDelay s).sr = s.sr := rfl
@[simp] theorem beginDelay_bitcnt (s : State) : (beginDelay s).bitcnt = s.bitcnt := rfl
@[simp] theorem beginDelay_ackbit (s : State) : (beginDelay s).ackbit = s.ackbit := rfl
@[simp] theorem beginDelay_dlyWait (s : State) : (beginDelay s).dlyWait = 1 := rfl
@[simp] theorem beginDelay_due (s : State) : (beginDelay s).due = s.due := rfl
@[simp] theorem beginDelay_result (s : State) : (beginDelay s).result = s.result := rfl
@[simp] theorem beginDelay_out (s : State) : (beginDelay s).out = s.out.timer := rfl
@[simp] theorem beginDelay_drvLow (s : State) : (beginDelay s).drvLow = s.drvLow := rfl
@[simp] theorem beginDelay_tcnt (s : State) : (beginDelay s).tcnt = 0 := rfl
@[simp] theorem beginDelay_mem (s : State) : (beginDelay s).mem = s.mem := rfl
@[simp] theorem beginDelay_env (s : State) : (beginDelay s).env = s.env := rfl
@[simp] theorem beginDelay_clock (s : State) : (beginDelay s).clock = s.clock := rfl
@[simp] theorem beginDelay_trace (s : State) : (beginDelay s).trace = s.trace ++ [.delay] := rfl

/-! ### endDelay -/

@[simp] theorem endDelay_par (s : State) : (endDelay s).par = s.par := rfl
@[simp] theorem endDelay_cmd (s : State) : (endDelay s).cmd = s.cmd := rfl
@[simp] theorem endDelay_len (s : State) : (endDelay s).len = s.len := rfl
@[simp] theorem endDelay_buf (s : State) : (endDelay s).buf = s.buf := rfl
@[simp] theorem endDelay_sclRef (s : State) : (endDelay s).sclRef = s.sclRef := rfl
@[simp] theorem endDelay_sdaRef (s : State) : (endDelay s).sdaRef = s.sdaRef := rfl
@[simp] theorem endDelay_status (s : State) : (endDelay s).status = s.status := rfl
@[simp] theorem endDelay_phase (s : State) : (endDelay s).phase = s.phase := rfl
@[simp] theorem endDelay_idx (s : State) : (endDelay s).idx = s.idx := rfl
@[simp] theorem endDelay_uop (s : State) : (endDelay s).uop = s.uop := rfl
@[simp] theorem endDelay_uopArg (s : State) : (endDelay s).uopArg = s.uopArg := rfl
@[simp] theorem endDelay_upos (s : State) : (endDelay s).upos = s.upos := rfl
@[simp] theorem endDelay_sr (s : State) : (endDelay s).sr = s.sr := rfl
@[simp] theorem endDelay_bitcnt (s : State) : (endDelay s).bitcnt = s.bitcnt := rfl
@[simp] theorem endDelay_ackbit (s : State) : (endDelay s).ackbit = s.ackbit := rfl
@[simp] theorem endDelay_dlyWait (s : State) : (endDelay s).dlyWait = 0 := rfl
@[simp] theorem endDelay_due (s : State) : (endDelay s).due = s.due := rfl
@[simp] theorem endDelay_result (s : State) : (endDelay s).result = s.result := rfl
@[simp] theorem endDelay_out (s : State) : (endDelay s).out = s.out.none := rfl
@[simp] theorem endDelay_drvLow (s : State) : (endDelay s).drvLow = s.drvLow := rfl
@[simp] theorem endDelay_tcnt (s : State) : (endDelay s).tcnt = s.tcnt := rfl
@[simp] theorem endDelay_mem (s : State) : (endDelay s).mem = s.mem := rfl
@[simp] theorem endDelay_env (s : State) : (endDelay s).env = s.env := rfl
@[simp] theorem endDelay_clock (s : State) : (endDelay s).clock = s.clock := rfl
@[simp] theorem endDelay_trace (s : State) : (endDelay s).trace = s.trace := rfl

/-! ### loadTx -/

@[simp] theorem loadTx_par (b : Byte) (s : State) : (loadTx b s).par = s.par := rfl
@[simp] theorem loadTx_cmd (b : Byte) (s : State) : (loadTx b s).cmd = s.cmd := rfl
@[simp] theorem loadTx_len (b : Byte) (s : State) : (loadTx b s).len = s.len := rfl
@[simp] theorem loadTx_buf (b : Byte) (s : State) : (loadTx b s).buf = s.buf := rfl
@[simp] theorem loadTx_sclRef (b : Byte) (s : State) : (loadTx b s).sclRef = s.sclRef := rfl
@[simp] theorem loadTx_sdaRef (b : Byte) (s : State) : (loadTx b s).sdaRef = s.sdaRef := rfl
@[simp] theorem loadTx_status (b : Byte) (s : State) : (loadTx b s).status = s.status := rfl
@[simp] theorem loadTx_phase (b : Byte) (s : State) : (loadTx b s).phase = s.phase := rfl
@[simp] theorem loadTx_idx (b : Byte) (s : State) : (loadTx b s).idx = s.idx := rfl
@[simp] theorem loadTx_uop (b : Byte) (s : State) : (loadTx b s).uop = s.uop := rfl
@[simp] theorem loadTx_uopArg (b : Byte) (s : State) : (loadTx b s).uopArg = s.uopArg := rfl
@[simp] theorem loadTx_upos (b : Byte) (s : State) : (loadTx b s).upos = s.upos := rfl
@[simp] theorem loadTx_sr (b : Byte) (s : State) : (loadTx b s).sr = b := rfl
@[simp] theorem loadTx_bitcnt (b : Byte) (s : State) : (loadTx b s).bitcnt = 8#4 := rfl
@[simp] theorem loadTx_ackbit (b : Byte) (s : State) : (loadTx b s).ackbit = s.ackbit := rfl
@[simp] theorem loadTx_dlyWait (b : Byte) (s : State) : (loadTx b s).dlyWait = s.dlyWait := rfl
@[simp] theorem loadTx_due (b : Byte) (s : State) : (loadTx b s).due = s.due := rfl
@[simp] theorem loadTx_result (b : Byte) (s : State) : (loadTx b s).result = s.result := rfl
@[simp] theorem loadTx_out (b : Byte) (s : State) : (loadTx b s).out = s.out := rfl
@[simp] theorem loadTx_drvLow (b : Byte) (s : State) : (loadTx b s).drvLow = s.drvLow := rfl
@[simp] theorem loadTx_tcnt (b : Byte) (s : State) : (loadTx b s).tcnt = s.tcnt := rfl
@[simp] theorem loadTx_mem (b : Byte) (s : State) : (loadTx b s).mem = s.mem := rfl
@[simp] theorem loadTx_env (b : Byte) (s : State) : (loadTx b s).env = s.env := rfl
@[simp] theorem loadTx_clock (b : Byte) (s : State) : (loadTx b s).clock = s.clock := rfl
@[simp] theorem loadTx_trace (b : Byte) (s : State) : (loadTx b s).trace = s.trace := rfl

/-! ### loadRx -/

@[simp] theorem loadRx_par (s : State) : (loadRx s).par = s.par := rfl
@[simp] theorem loadRx_cmd (s : State) : (loadRx s).cmd = s.cmd := rfl
@[simp] theorem loadRx_len (s : State) : (loadRx s).len = s.len := rfl
@[simp] theorem loadRx_buf (s : State) : (loadRx s).buf = s.buf := rfl
@[simp] theorem loadRx_sclRef (s : State) : (loadRx s).sclRef = s.sclRef := rfl
@[simp] theorem loadRx_sdaRef (s : State) : (loadRx s).sdaRef = s.sdaRef := rfl
@[simp] theorem loadRx_status (s : State) : (loadRx s).status = s.status := rfl
@[simp] theorem loadRx_phase (s : State) : (loadRx s).phase = s.phase := rfl
@[simp] theorem loadRx_idx (s : State) : (loadRx s).idx = s.idx := rfl
@[simp] theorem loadRx_uop (s : State) : (loadRx s).uop = s.uop := rfl
@[simp] theorem loadRx_uopArg (s : State) : (loadRx s).uopArg = s.uopArg := rfl
@[simp] theorem loadRx_upos (s : State) : (loadRx s).upos = s.upos := rfl
@[simp] theorem loadRx_sr (s : State) : (loadRx s).sr = s.sr := rfl
@[simp] theorem loadRx_bitcnt (s : State) : (loadRx s).bitcnt = 8#4 := rfl
@[simp] theorem loadRx_ackbit (s : State) : (loadRx s).ackbit = s.ackbit := rfl
@[simp] theorem loadRx_dlyWait (s : State) : (loadRx s).dlyWait = s.dlyWait := rfl
@[simp] theorem loadRx_due (s : State) : (loadRx s).due = s.due := rfl
@[simp] theorem loadRx_result (s : State) : (loadRx s).result = s.result := rfl
@[simp] theorem loadRx_out (s : State) : (loadRx s).out = s.out := rfl
@[simp] theorem loadRx_drvLow (s : State) : (loadRx s).drvLow = s.drvLow := rfl
@[simp] theorem loadRx_tcnt (s : State) : (loadRx s).tcnt = s.tcnt := rfl
@[simp] theorem loadRx_mem (s : State) : (loadRx s).mem = s.mem := rfl
@[simp] theorem loadRx_env (s : State) : (loadRx s).env = s.env := rfl
@[simp] theorem loadRx_clock (s : State) : (loadRx s).clock = s.clock := rfl
@[simp] theorem loadRx_trace (s : State) : (loadRx s).trace = s.trace := rfl

/-! ### shiftIn -/

@[simp] theorem shiftIn_par (v : Bit) (s : State) : (shiftIn v s).par = s.par := rfl
@[simp] theorem shiftIn_cmd (v : Bit) (s : State) : (shiftIn v s).cmd = s.cmd := rfl
@[simp] theorem shiftIn_len (v : Bit) (s : State) : (shiftIn v s).len = s.len := rfl
@[simp] theorem shiftIn_buf (v : Bit) (s : State) : (shiftIn v s).buf = s.buf := rfl
@[simp] theorem shiftIn_sclRef (v : Bit) (s : State) : (shiftIn v s).sclRef = s.sclRef := rfl
@[simp] theorem shiftIn_sdaRef (v : Bit) (s : State) : (shiftIn v s).sdaRef = s.sdaRef := rfl
@[simp] theorem shiftIn_status (v : Bit) (s : State) : (shiftIn v s).status = s.status := rfl
@[simp] theorem shiftIn_phase (v : Bit) (s : State) : (shiftIn v s).phase = s.phase := rfl
@[simp] theorem shiftIn_idx (v : Bit) (s : State) : (shiftIn v s).idx = s.idx := rfl
@[simp] theorem shiftIn_uop (v : Bit) (s : State) : (shiftIn v s).uop = s.uop := rfl
@[simp] theorem shiftIn_uopArg (v : Bit) (s : State) : (shiftIn v s).uopArg = s.uopArg := rfl
@[simp] theorem shiftIn_upos (v : Bit) (s : State) : (shiftIn v s).upos = s.upos := rfl
@[simp] theorem shiftIn_sr (v : Bit) (s : State) : (shiftIn v s).sr = (s.sr.extractLsb' 0 7 ++ v : BitVec (7 + 1)) := rfl
@[simp] theorem shiftIn_bitcnt (v : Bit) (s : State) : (shiftIn v s).bitcnt = s.bitcnt := rfl
@[simp] theorem shiftIn_ackbit (v : Bit) (s : State) : (shiftIn v s).ackbit = s.ackbit := rfl
@[simp] theorem shiftIn_dlyWait (v : Bit) (s : State) : (shiftIn v s).dlyWait = s.dlyWait := rfl
@[simp] theorem shiftIn_due (v : Bit) (s : State) : (shiftIn v s).due = s.due := rfl
@[simp] theorem shiftIn_result (v : Bit) (s : State) : (shiftIn v s).result = s.result := rfl
@[simp] theorem shiftIn_out (v : Bit) (s : State) : (shiftIn v s).out = s.out := rfl
@[simp] theorem shiftIn_drvLow (v : Bit) (s : State) : (shiftIn v s).drvLow = s.drvLow := rfl
@[simp] theorem shiftIn_tcnt (v : Bit) (s : State) : (shiftIn v s).tcnt = s.tcnt := rfl
@[simp] theorem shiftIn_mem (v : Bit) (s : State) : (shiftIn v s).mem = s.mem := rfl
@[simp] theorem shiftIn_env (v : Bit) (s : State) : (shiftIn v s).env = s.env := rfl
@[simp] theorem shiftIn_clock (v : Bit) (s : State) : (shiftIn v s).clock = s.clock := rfl
@[simp] theorem shiftIn_trace (v : Bit) (s : State) : (shiftIn v s).trace = s.trace := rfl

/-! ### sampleAck -/

@[simp] theorem sampleAck_par (s : State) : (sampleAck s).par = s.par := rfl
@[simp] theorem sampleAck_cmd (s : State) : (sampleAck s).cmd = s.cmd := rfl
@[simp] theorem sampleAck_len (s : State) : (sampleAck s).len = s.len := rfl
@[simp] theorem sampleAck_buf (s : State) : (sampleAck s).buf = s.buf := rfl
@[simp] theorem sampleAck_sclRef (s : State) : (sampleAck s).sclRef = s.sclRef := rfl
@[simp] theorem sampleAck_sdaRef (s : State) : (sampleAck s).sdaRef = s.sdaRef := rfl
@[simp] theorem sampleAck_status (s : State) : (sampleAck s).status = s.status := rfl
@[simp] theorem sampleAck_phase (s : State) : (sampleAck s).phase = s.phase := rfl
@[simp] theorem sampleAck_idx (s : State) : (sampleAck s).idx = s.idx := rfl
@[simp] theorem sampleAck_uop (s : State) : (sampleAck s).uop = s.uop := rfl
@[simp] theorem sampleAck_uopArg (s : State) : (sampleAck s).uopArg = s.uopArg := rfl
@[simp] theorem sampleAck_upos (s : State) : (sampleAck s).upos = s.upos := rfl
@[simp] theorem sampleAck_sr (s : State) : (sampleAck s).sr = s.sr := rfl
@[simp] theorem sampleAck_bitcnt (s : State) : (sampleAck s).bitcnt = s.bitcnt := rfl
@[simp] theorem sampleAck_ackbit (s : State) : (sampleAck s).ackbit = s.sdaRead := rfl
@[simp] theorem sampleAck_dlyWait (s : State) : (sampleAck s).dlyWait = s.dlyWait := rfl
@[simp] theorem sampleAck_due (s : State) : (sampleAck s).due = s.due := rfl
@[simp] theorem sampleAck_result (s : State) : (sampleAck s).result = s.result := rfl
@[simp] theorem sampleAck_out (s : State) : (sampleAck s).out = s.out.gpio 0b11 s.sdaRef := rfl
@[simp] theorem sampleAck_drvLow (s : State) : (sampleAck s).drvLow = s.drvLow := rfl
@[simp] theorem sampleAck_tcnt (s : State) : (sampleAck s).tcnt = s.tcnt := rfl
@[simp] theorem sampleAck_mem (s : State) : (sampleAck s).mem = s.mem := rfl
@[simp] theorem sampleAck_env (s : State) : (sampleAck s).env = s.env := rfl
@[simp] theorem sampleAck_clock (s : State) : (sampleAck s).clock = s.clock := rfl
@[simp] theorem sampleAck_trace (s : State) : (sampleAck s).trace = s.trace ++ [.sample s.sdaRef s.sdaRead] := rfl

/-! ### enterStop -/

@[simp] theorem enterStop_par (r : Result) (s : State) : (enterStop r s).par = s.par := rfl
@[simp] theorem enterStop_cmd (r : Result) (s : State) : (enterStop r s).cmd = s.cmd := rfl
@[simp] theorem enterStop_len (r : Result) (s : State) : (enterStop r s).len = s.len := rfl
@[simp] theorem enterStop_buf (r : Result) (s : State) : (enterStop r s).buf = s.buf := rfl
@[simp] theorem enterStop_sclRef (r : Result) (s : State) : (enterStop r s).sclRef = s.sclRef := rfl
@[simp] theorem enterStop_sdaRef (r : Result) (s : State) : (enterStop r s).sdaRef = s.sdaRef := rfl
@[simp] theorem enterStop_status (r : Result) (s : State) : (enterStop r s).status = s.status := rfl
@[simp] theorem enterStop_phase (r : Result) (s : State) : (enterStop r s).phase = 4#3 := rfl
@[simp] theorem enterStop_idx (r : Result) (s : State) : (enterStop r s).idx = s.idx := rfl
@[simp] theorem enterStop_uop (r : Result) (s : State) : (enterStop r s).uop = 0x6#4 := rfl
@[simp] theorem enterStop_uopArg (r : Result) (s : State) : (enterStop r s).uopArg = 0#12 := rfl
@[simp] theorem enterStop_upos (r : Result) (s : State) : (enterStop r s).upos = 0 := rfl
@[simp] theorem enterStop_sr (r : Result) (s : State) : (enterStop r s).sr = s.sr := rfl
@[simp] theorem enterStop_bitcnt (r : Result) (s : State) : (enterStop r s).bitcnt = s.bitcnt := rfl
@[simp] theorem enterStop_ackbit (r : Result) (s : State) : (enterStop r s).ackbit = s.ackbit := rfl
@[simp] theorem enterStop_dlyWait (r : Result) (s : State) : (enterStop r s).dlyWait = s.dlyWait := rfl
@[simp] theorem enterStop_due (r : Result) (s : State) : (enterStop r s).due = .uop := rfl
@[simp] theorem enterStop_result (r : Result) (s : State) : (enterStop r s).result = r := rfl
@[simp] theorem enterStop_out (r : Result) (s : State) : (enterStop r s).out = s.out := rfl
@[simp] theorem enterStop_drvLow (r : Result) (s : State) : (enterStop r s).drvLow = s.drvLow := rfl
@[simp] theorem enterStop_tcnt (r : Result) (s : State) : (enterStop r s).tcnt = s.tcnt := rfl
@[simp] theorem enterStop_mem (r : Result) (s : State) : (enterStop r s).mem = s.mem := rfl
@[simp] theorem enterStop_env (r : Result) (s : State) : (enterStop r s).env = s.env := rfl
@[simp] theorem enterStop_clock (r : Result) (s : State) : (enterStop r s).clock = s.clock := rfl
@[simp] theorem enterStop_trace (r : Result) (s : State) : (enterStop r s).trace = s.trace := rfl

/-! ### enterAddress -/

@[simp] theorem enterAddress_par (s : State) : (enterAddress s).par = s.par := rfl
@[simp] theorem enterAddress_cmd (s : State) : (enterAddress s).cmd = s.cmd := rfl
@[simp] theorem enterAddress_len (s : State) : (enterAddress s).len = s.len := rfl
@[simp] theorem enterAddress_buf (s : State) : (enterAddress s).buf = s.buf := rfl
@[simp] theorem enterAddress_sclRef (s : State) : (enterAddress s).sclRef = s.sclRef := rfl
@[simp] theorem enterAddress_sdaRef (s : State) : (enterAddress s).sdaRef = s.sdaRef := rfl
@[simp] theorem enterAddress_status (s : State) : (enterAddress s).status = s.status := rfl
@[simp] theorem enterAddress_phase (s : State) : (enterAddress s).phase = 2#3 := rfl
@[simp] theorem enterAddress_idx (s : State) : (enterAddress s).idx = s.idx := rfl
@[simp] theorem enterAddress_upos (s : State) : (enterAddress s).upos = 0 := rfl
@[simp] theorem enterAddress_sr (s : State) : (enterAddress s).sr = s.sr := rfl
@[simp] theorem enterAddress_bitcnt (s : State) : (enterAddress s).bitcnt = s.bitcnt := rfl
@[simp] theorem enterAddress_ackbit (s : State) : (enterAddress s).ackbit = s.ackbit := rfl
@[simp] theorem enterAddress_dlyWait (s : State) : (enterAddress s).dlyWait = s.dlyWait := rfl
@[simp] theorem enterAddress_due (s : State) : (enterAddress s).due = .uop := rfl
@[simp] theorem enterAddress_result (s : State) : (enterAddress s).result = s.result := rfl
@[simp] theorem enterAddress_out (s : State) : (enterAddress s).out = s.out := rfl
@[simp] theorem enterAddress_drvLow (s : State) : (enterAddress s).drvLow = s.drvLow := rfl
@[simp] theorem enterAddress_tcnt (s : State) : (enterAddress s).tcnt = s.tcnt := rfl
@[simp] theorem enterAddress_mem (s : State) : (enterAddress s).mem = s.mem := rfl
@[simp] theorem enterAddress_env (s : State) : (enterAddress s).env = s.env := rfl
@[simp] theorem enterAddress_clock (s : State) : (enterAddress s).clock = s.clock := rfl
@[simp] theorem enterAddress_trace (s : State) : (enterAddress s).trace = s.trace := rfl

/-! ### completeCommand -/

@[simp] theorem completeCommand_par (r : Result) (s : State) : (completeCommand r s).par = s.par := rfl
@[simp] theorem completeCommand_cmd (r : Result) (s : State) : (completeCommand r s).cmd = s.cmd := rfl
@[simp] theorem completeCommand_len (r : Result) (s : State) : (completeCommand r s).len = s.len := rfl
@[simp] theorem completeCommand_buf (r : Result) (s : State) : (completeCommand r s).buf = s.buf := rfl
@[simp] theorem completeCommand_sclRef (r : Result) (s : State) : (completeCommand r s).sclRef = s.sclRef := rfl
@[simp] theorem completeCommand_sdaRef (r : Result) (s : State) : (completeCommand r s).sdaRef = s.sdaRef := rfl
@[simp] theorem completeCommand_status (r : Result) (s : State) : (completeCommand r s).status = statusDone r := rfl
@[simp] theorem completeCommand_phase (r : Result) (s : State) : (completeCommand r s).phase = 0#3 := rfl
@[simp] theorem completeCommand_idx (r : Result) (s : State) : (completeCommand r s).idx = s.idx := rfl
@[simp] theorem completeCommand_uop (r : Result) (s : State) : (completeCommand r s).uop = s.uop := rfl
@[simp] theorem completeCommand_uopArg (r : Result) (s : State) : (completeCommand r s).uopArg = s.uopArg := rfl
@[simp] theorem completeCommand_upos (r : Result) (s : State) : (completeCommand r s).upos = s.upos := rfl
@[simp] theorem completeCommand_sr (r : Result) (s : State) : (completeCommand r s).sr = s.sr := rfl
@[simp] theorem completeCommand_bitcnt (r : Result) (s : State) : (completeCommand r s).bitcnt = s.bitcnt := rfl
@[simp] theorem completeCommand_ackbit (r : Result) (s : State) : (completeCommand r s).ackbit = s.ackbit := rfl
@[simp] theorem completeCommand_dlyWait (r : Result) (s : State) : (completeCommand r s).dlyWait = s.dlyWait := rfl
@[simp] theorem completeCommand_due (r : Result) (s : State) : (completeCommand r s).due = s.due := rfl
@[simp] theorem completeCommand_result (r : Result) (s : State) : (completeCommand r s).result = s.result := rfl
@[simp] theorem completeCommand_out (r : Result) (s : State) : (completeCommand r s).out = s.out.none := rfl
@[simp] theorem completeCommand_drvLow (r : Result) (s : State) : (completeCommand r s).drvLow = s.drvLow := rfl
@[simp] theorem completeCommand_tcnt (r : Result) (s : State) : (completeCommand r s).tcnt = s.tcnt := rfl
@[simp] theorem completeCommand_mem (r : Result) (s : State) : (completeCommand r s).mem = s.mem := rfl
@[simp] theorem completeCommand_env (r : Result) (s : State) : (completeCommand r s).env = s.env := rfl
@[simp] theorem completeCommand_clock (r : Result) (s : State) : (completeCommand r s).clock = s.clock := rfl
@[simp] theorem completeCommand_trace (r : Result) (s : State) : (completeCommand r s).trace = s.trace ++ [.done r] := rfl

/-! ### latchCommand -/

@[simp] theorem latchCommand_par (o : Offer) (s : State) : (latchCommand o s).par = s.par := rfl
@[simp] theorem latchCommand_cmd (o : Offer) (s : State) : (latchCommand o s).cmd = o.word := rfl
@[simp] theorem latchCommand_len (o : Offer) (s : State) : (latchCommand o s).len = o.len := rfl
@[simp] theorem latchCommand_buf (o : Offer) (s : State) : (latchCommand o s).buf = o.buf := rfl
@[simp] theorem latchCommand_sclRef (o : Offer) (s : State) : (latchCommand o s).sclRef = o.scl := rfl
@[simp] theorem latchCommand_sdaRef (o : Offer) (s : State) : (latchCommand o s).sdaRef = o.sda := rfl
@[simp] theorem latchCommand_status (o : Offer) (s : State) : (latchCommand o s).status = 0x01#8 := rfl
@[simp] theorem latchCommand_phase (o : Offer) (s : State) : (latchCommand o s).phase = 1#3 := rfl
@[simp] theorem latchCommand_idx (o : Offer) (s : State) : (latchCommand o s).idx = s.idx := rfl
@[simp] theorem latchCommand_uop (o : Offer) (s : State) : (latchCommand o s).uop = 0x5#4 := rfl
@[simp] theorem latchCommand_uopArg (o : Offer) (s : State) : (latchCommand o s).uopArg = 0#12 := rfl
@[simp] theorem latchCommand_upos (o : Offer) (s : State) : (latchCommand o s).upos = 0 := rfl
@[simp] theorem latchCommand_sr (o : Offer) (s : State) : (latchCommand o s).sr = s.sr := rfl
@[simp] theorem latchCommand_bitcnt (o : Offer) (s : State) : (latchCommand o s).bitcnt = s.bitcnt := rfl
@[simp] theorem latchCommand_ackbit (o : Offer) (s : State) : (latchCommand o s).ackbit = s.ackbit := rfl
@[simp] theorem latchCommand_dlyWait (o : Offer) (s : State) : (latchCommand o s).dlyWait = s.dlyWait := rfl
@[simp] theorem latchCommand_due (o : Offer) (s : State) : (latchCommand o s).due = .uop := rfl
@[simp] theorem latchCommand_result (o : Offer) (s : State) : (latchCommand o s).result = s.result := rfl
@[simp] theorem latchCommand_out (o : Offer) (s : State) : (latchCommand o s).out = s.out.none := rfl
@[simp] theorem latchCommand_drvLow (o : Offer) (s : State) : (latchCommand o s).drvLow = s.drvLow := rfl
@[simp] theorem latchCommand_tcnt (o : Offer) (s : State) : (latchCommand o s).tcnt = s.tcnt := rfl
@[simp] theorem latchCommand_mem (o : Offer) (s : State) : (latchCommand o s).mem = s.mem := rfl
@[simp] theorem latchCommand_env (o : Offer) (s : State) : (latchCommand o s).env = s.env := rfl
@[simp] theorem latchCommand_clock (o : Offer) (s : State) : (latchCommand o s).clock = s.clock := rfl
@[simp] theorem latchCommand_trace (o : Offer) (s : State) : (latchCommand o s).trace = s.trace := rfl

/-! ### envStep -/

@[simp] theorem envStep_par (s : State) : (envStep s).par = s.par := rfl
@[simp] theorem envStep_cmd (s : State) : (envStep s).cmd = s.cmd := rfl
@[simp] theorem envStep_len (s : State) : (envStep s).len = s.len := rfl
@[simp] theorem envStep_buf (s : State) : (envStep s).buf = s.buf := rfl
@[simp] theorem envStep_sclRef (s : State) : (envStep s).sclRef = s.sclRef := rfl
@[simp] theorem envStep_sdaRef (s : State) : (envStep s).sdaRef = s.sdaRef := rfl
@[simp] theorem envStep_status (s : State) : (envStep s).status = s.status := rfl
@[simp] theorem envStep_phase (s : State) : (envStep s).phase = s.phase := rfl
@[simp] theorem envStep_idx (s : State) : (envStep s).idx = s.idx := rfl
@[simp] theorem envStep_uop (s : State) : (envStep s).uop = s.uop := rfl
@[simp] theorem envStep_uopArg (s : State) : (envStep s).uopArg = s.uopArg := rfl
@[simp] theorem envStep_upos (s : State) : (envStep s).upos = s.upos := rfl
@[simp] theorem envStep_sr (s : State) : (envStep s).sr = s.sr := rfl
@[simp] theorem envStep_bitcnt (s : State) : (envStep s).bitcnt = s.bitcnt := rfl
@[simp] theorem envStep_ackbit (s : State) : (envStep s).ackbit = s.ackbit := rfl
@[simp] theorem envStep_dlyWait (s : State) : (envStep s).dlyWait = s.dlyWait := rfl
@[simp] theorem envStep_due (s : State) : (envStep s).due = s.due := rfl
@[simp] theorem envStep_result (s : State) : (envStep s).result = s.result := rfl
@[simp] theorem envStep_out (s : State) : (envStep s).out = s.out := rfl
@[simp] theorem envStep_drvLow (s : State) : (envStep s).drvLow = s.now.pinActs.foldl (otherPinAct s) s.drvLow := rfl
@[simp] theorem envStep_tcnt (s : State) : (envStep s).tcnt = ticked s.par s.now s.tcnt := rfl
@[simp] theorem envStep_mem (s : State) : (envStep s).mem = s.now.hostWrites.foldl (hostWrite s) s.mem := rfl
@[simp] theorem envStep_env (s : State) : (envStep s).env = s.env.tail := rfl
@[simp] theorem envStep_clock (s : State) : (envStep s).clock = s.clock + 1 := rfl
@[simp] theorem envStep_trace (s : State) : (envStep s).trace = s.trace := rfl

/-! ### resetBlock: the reset values, and what reset leaves alone (70_reset_and_hazards R210) -/

@[simp] theorem resetBlock_par (s : State) : (resetBlock s).par = s.par := rfl
@[simp] theorem resetBlock_cmd (s : State) : (resetBlock s).cmd = State.reset.cmd := rfl
@[simp] theorem resetBlock_len (s : State) : (resetBlock s).len = State.reset.len := rfl
@[simp] theorem resetBlock_buf (s : State) : (resetBlock s).buf = State.reset.buf := rfl
@[simp] theorem resetBlock_sclRef (s : State) : (resetBlock s).sclRef = State.reset.sclRef := rfl
@[simp] theorem resetBlock_sdaRef (s : State) : (resetBlock s).sdaRef = State.reset.sdaRef := rfl
@[simp] theorem resetBlock_status (s : State) : (resetBlock s).status = State.reset.status := rfl
@[simp] theorem resetBlock_phase (s : State) : (resetBlock s).phase = State.reset.phase := rfl
@[simp] theorem resetBlock_idx (s : State) : (resetBlock s).idx = State.reset.idx := rfl
@[simp] theorem resetBlock_uop (s : State) : (resetBlock s).uop = State.reset.uop := rfl
@[simp] theorem resetBlock_uopArg (s : State) : (resetBlock s).uopArg = State.reset.uopArg := rfl
@[simp] theorem resetBlock_upos (s : State) : (resetBlock s).upos = State.reset.upos := rfl
@[simp] theorem resetBlock_sr (s : State) : (resetBlock s).sr = State.reset.sr := rfl
@[simp] theorem resetBlock_bitcnt (s : State) : (resetBlock s).bitcnt = State.reset.bitcnt := rfl
@[simp] theorem resetBlock_ackbit (s : State) : (resetBlock s).ackbit = State.reset.ackbit := rfl
@[simp] theorem resetBlock_dlyWait (s : State) : (resetBlock s).dlyWait = State.reset.dlyWait := rfl
@[simp] theorem resetBlock_due (s : State) : (resetBlock s).due = State.reset.due := rfl
@[simp] theorem resetBlock_result (s : State) : (resetBlock s).result = State.reset.result := rfl
@[simp] theorem resetBlock_out (s : State) : (resetBlock s).out = State.reset.out := rfl
@[simp] theorem resetBlock_drvLow (s : State) : (resetBlock s).drvLow = s.drvLow := rfl
@[simp] theorem resetBlock_tcnt (s : State) : (resetBlock s).tcnt = s.tcnt := rfl
@[simp] theorem resetBlock_mem (s : State) : (resetBlock s).mem = s.mem := rfl
@[simp] theorem resetBlock_env (s : State) : (resetBlock s).env = s.env := rfl
@[simp] theorem resetBlock_clock (s : State) : (resetBlock s).clock = s.clock := rfl
@[simp] theorem resetBlock_trace (s : State) : (resetBlock s).trace = s.trace := rfl

/-! ### The conditional updates: the fields they leave alone -/

@[simp] theorem driveBit_par (s : State) : (driveBit s).par = s.par := by
  simp only [driveBit]; split <;> rfl
@[simp] theorem driveBit_cmd (s : State) : (driveBit s).cmd = s.cmd := by
  simp only [driveBit]; split <;> rfl
@[simp] theorem driveBit_len (s : State) : (driveBit s).len = s.len := by
  simp only [driveBit]; split <;> rfl
@[simp] theorem driveBit_buf (s : State) : (driveBit s).buf = s.buf := by
  simp only [driveBit]; split <;> rfl
@[simp] theorem driveBit_sclRef (s : State) : (driveBit s).sclRef = s.sclRef := by
  simp only [driveBit]; split <;> rfl
@[simp] theorem driveBit_sdaRef (s : State) : (driveBit s).sdaRef = s.sdaRef := by
  simp only [driveBit]; split <;> rfl
@[simp] theorem driveBit_status (s : State) : (driveBit s).status = s.status := by
  simp only [driveBit]; split <;> rfl
@[simp] theorem driveBit_phase (s : State) : (driveBit s).phase = s.phase := by
  simp only [driveBit]; split <;> rfl
@[simp] theorem driveBit_idx (s : State) : (driveBit s).idx = s.idx := by
  simp only [driveBit]; split <;> rfl
@[simp] theorem driveBit_uop (s : State) : (driveBit s).uop = s.uop := by
  simp only [driveBit]; split <;> rfl
@[simp] theorem driveBit_uopArg (s : State) : (driveBit s).uopArg = s.uopArg := by
  simp only [driveBit]; split <;> rfl
@[simp] theorem driveBit_upos (s : State) : (driveBit s).upos = s.upos := by
  simp only [driveBit]; split <;> rfl
@[simp] theorem driveBit_sr (s : State) : (driveBit s).sr = s.sr := by
  simp only [driveBit]; split <;> rfl
@[simp] theorem driveBit_bitcnt (s : State) : (driveBit s).bitcnt = s.bitcnt := by
  simp only [driveBit]; split <;> rfl
@[simp] theorem driveBit_ackbit (s : State) : (driveBit s).ackbit = s.ackbit := by
  simp only [driveBit]; split <;> rfl
@[simp] theorem driveBit_dlyWait (s : State) : (driveBit s).dlyWait = s.dlyWait := by
  simp only [driveBit]; split <;> rfl
@[simp] theorem driveBit_due (s : State) : (driveBit s).due = s.due := by
  simp only [driveBit]; split <;> rfl
@[simp] theorem driveBit_result (s : State) : (driveBit s).result = s.result := by
  simp only [driveBit]; split <;> rfl
@[simp] theorem driveBit_tcnt (s : State) : (driveBit s).tcnt = s.tcnt := by
  simp only [driveBit]; split <;> rfl
@[simp] theorem driveBit_mem (s : State) : (driveBit s).mem = s.mem := by
  simp only [driveBit]; split <;> rfl
@[simp] theorem driveBit_env (s : State) : (driveBit s).env = s.env := by
  simp only [driveBit]; split <;> rfl
@[simp] theorem driveBit_clock (s : State) : (driveBit s).clock = s.clock := by
  simp only [driveBit]; split <;> rfl

@[simp] theorem endBit_par (s : State) : (endBit s).par = s.par := by
  simp only [endBit]; split <;> rfl
@[simp] theorem endBit_cmd (s : State) : (endBit s).cmd = s.cmd := by
  simp only [endBit]; split <;> rfl
@[simp] theorem endBit_len (s : State) : (endBit s).len = s.len := by
  simp only [endBit]; split <;> rfl
@[simp] theorem endBit_buf (s : State) : (endBit s).buf = s.buf := by
  simp only [endBit]; split <;> rfl
@[simp] theorem endBit_sclRef (s : State) : (endBit s).sclRef = s.sclRef := by
  simp only [endBit]; split <;> rfl
@[simp] theorem endBit_sdaRef (s : State) : (endBit s).sdaRef = s.sdaRef := by
  simp only [endBit]; split <;> rfl
@[simp] theorem endBit_status (s : State) : (endBit s).status = s.status := by
  simp only [endBit]; split <;> rfl
@[simp] theorem endBit_phase (s : State) : (endBit s).phase = s.phase := by
  simp only [endBit]; split <;> rfl
@[simp] theorem endBit_idx (s : State) : (endBit s).idx = s.idx := by
  simp only [endBit]; split <;> rfl
@[simp] theorem endBit_uop (s : State) : (endBit s).uop = s.uop := by
  simp only [endBit]; split <;> rfl
@[simp] theorem endBit_uopArg (s : State) : (endBit s).uopArg = s.uopArg := by
  simp only [endBit]; split <;> rfl
@[simp] theorem endBit_sr (s : State) : (endBit s).sr = s.sr := by
  simp only [endBit]; split <;> rfl
@[simp] theorem endBit_ackbit (s : State) : (endBit s).ackbit = s.ackbit := by
  simp only [endBit]; split <;> rfl
@[simp] theorem endBit_dlyWait (s : State) : (endBit s).dlyWait = s.dlyWait := by
  simp only [endBit]; split <;> rfl
@[simp] theorem endBit_result (s : State) : (endBit s).result = s.result := by
  simp only [endBit]; split <;> rfl
@[simp] theorem endBit_out (s : State) : (endBit s).out = s.out := by
  simp only [endBit]; split <;> rfl
@[simp] theorem endBit_drvLow (s : State) : (endBit s).drvLow = s.drvLow := by
  simp only [endBit]; split <;> rfl
@[simp] theorem endBit_tcnt (s : State) : (endBit s).tcnt = s.tcnt := by
  simp only [endBit]; split <;> rfl
@[simp] theorem endBit_mem (s : State) : (endBit s).mem = s.mem := by
  simp only [endBit]; split <;> rfl
@[simp] theorem endBit_env (s : State) : (endBit s).env = s.env := by
  simp only [endBit]; split <;> rfl
@[simp] theorem endBit_clock (s : State) : (endBit s).clock = s.clock := by
  simp only [endBit]; split <;> rfl
@[simp] theorem endBit_trace (s : State) : (endBit s).trace = s.trace := by
  simp only [endBit]; split <;> rfl

@[simp] theorem endTxBit_par (s : State) : (endTxBit s).par = s.par := by
  simp only [endTxBit, endBit]; split <;> rfl
@[simp] theorem endTxBit_cmd (s : State) : (endTxBit s).cmd = s.cmd := by
  simp only [endTxBit, endBit]; split <;> rfl
@[simp] theorem endTxBit_len (s : State) : (endTxBit s).len = s.len := by
  simp only [endTxBit, endBit]; split <;> rfl
@[simp] theorem endTxBit_buf (s : State) : (endTxBit s).buf = s.buf := by
  simp only [endTxBit, endBit]; split <;> rfl
@[simp] theorem endTxBit_sclRef (s : State) : (endTxBit s).sclRef = s.sclRef := by
  simp only [endTxBit, endBit]; split <;> rfl
@[simp] theorem endTxBit_sdaRef (s : State) : (endTxBit s).sdaRef = s.sdaRef := by
  simp only [endTxBit, endBit]; split <;> rfl
@[simp] theorem endTxBit_status (s : State) : (endTxBit s).status = s.status := by
  simp only [endTxBit, endBit]; split <;> rfl
@[simp] theorem endTxBit_phase (s : State) : (endTxBit s).phase = s.phase := by
  simp only [endTxBit, endBit]; split <;> rfl
@[simp] theorem endTxBit_idx (s : State) : (endTxBit s).idx = s.idx := by
  simp only [endTxBit, endBit]; split <;> rfl
@[simp] theorem endTxBit_uop (s : State) : (endTxBit s).uop = s.uop := by
  simp only [endTxBit, endBit]; split <;> rfl
@[simp] theorem endTxBit_uopArg (s : State) : (endTxBit s).uopArg = s.uopArg := by
  simp only [endTxBit, endBit]; split <;> rfl
@[simp] theorem endTxBit_ackbit (s : State) : (endTxBit s).ackbit = s.ackbit := by
  simp only [endTxBit, endBit]; split <;> rfl
@[simp] theorem endTxBit_dlyWait (s : State) : (endTxBit s).dlyWait = s.dlyWait := by
  simp only [endTxBit, endBit]; split <;> rfl
@[simp] theorem endTxBit_result (s : State) : (endTxBit s).result = s.result := by
  simp only [endTxBit, endBit]; split <;> rfl
@[simp] theorem endTxBit_out (s : State) : (endTxBit s).out = s.out := by
  simp only [endTxBit, endBit]; split <;> rfl
@[simp] theorem endTxBit_drvLow (s : State) : (endTxBit s).drvLow = s.drvLow := by
  simp only [endTxBit, endBit]; split <;> rfl
@[simp] theorem endTxBit_tcnt (s : State) : (endTxBit s).tcnt = s.tcnt := by
  simp only [endTxBit, endBit]; split <;> rfl
@[simp] theorem endTxBit_mem (s : State) : (endTxBit s).mem = s.mem := by
  simp only [endTxBit, endBit]; split <;> rfl
@[simp] theorem endTxBit_env (s : State) : (endTxBit s).env = s.env := by
  simp only [endTxBit, endBit]; split <;> rfl
@[simp] theorem endTxBit_clock (s : State) : (endTxBit s).clock = s.clock := by
  simp only [endTxBit, endBit]; split <;> rfl
@[simp] theorem endTxBit_trace (s : State) : (endTxBit s).trace = s.trace := by
  simp only [endTxBit, endBit]; split <;> rfl

@[simp] theorem sampleBit_par (s : State) : (sampleBit s).par = s.par := rfl
@[simp] theorem sampleBit_cmd (s : State) : (sampleBit s).cmd = s.cmd := rfl
@[simp] theorem sampleBit_len (s : State) : (sampleBit s).len = s.len := rfl
@[simp] theorem sampleBit_buf (s : State) : (sampleBit s).buf = s.buf := rfl
@[simp] theorem sampleBit_sclRef (s : State) : (sampleBit s).sclRef = s.sclRef := rfl
@[simp] theorem sampleBit_sdaRef (s : State) : (sampleBit s).sdaRef = s.sdaRef := rfl
@[simp] theorem sampleBit_status (s : State) : (sampleBit s).status = s.status := rfl
@[simp] theorem sampleBit_phase (s : State) : (sampleBit s).phase = s.phase := rfl
@[simp] theorem sampleBit_idx (s : State) : (sampleBit s).idx = s.idx := rfl
@[simp] theorem sampleBit_uop (s : State) : (sampleBit s).uop = s.uop := rfl
@[simp] theorem sampleBit_uopArg (s : State) : (sampleBit s).uopArg = s.uopArg := rfl
@[simp] theorem sampleBit_upos (s : State) : (sampleBit s).upos = s.upos := rfl
@[simp] theorem sampleBit_bitcnt (s : State) : (sampleBit s).bitcnt = s.bitcnt := rfl
@[simp] theorem sampleBit_ackbit (s : State) : (sampleBit s).ackbit = s.ackbit := rfl
@[simp] theorem sampleBit_dlyWait (s : State) : (sampleBit s).dlyWait = s.dlyWait := rfl
@[simp] theorem sampleBit_due (s : State) : (sampleBit s).due = s.due := rfl
@[simp] theorem sampleBit_result (s : State) : (sampleBit s).result = s.result := rfl
@[simp] theorem sampleBit_drvLow (s : State) : (sampleBit s).drvLow = s.drvLow := rfl
@[simp] theorem sampleBit_tcnt (s : State) : (sampleBit s).tcnt = s.tcnt := rfl
@[simp] theorem sampleBit_mem (s : State) : (sampleBit s).mem = s.mem := rfl
@[simp] theorem sampleBit_env (s : State) : (sampleBit s).env = s.env := rfl
@[simp] theorem sampleBit_clock (s : State) : (sampleBit s).clock = s.clock := rfl

@[simp] theorem payloadLoop_par (k : Nat) (s : State) : (payloadLoop k s).par = s.par := by
  simp only [payloadLoop]; split_ifs <;> rfl
@[simp] theorem payloadLoop_cmd (k : Nat) (s : State) : (payloadLoop k s).cmd = s.cmd := by
  simp only [payloadLoop]; split_ifs <;> rfl
@[simp] theorem payloadLoop_len (k : Nat) (s : State) : (payloadLoop k s).len = s.len := by
  simp only [payloadLoop]; split_ifs <;> rfl
@[simp] theorem payloadLoop_buf (k : Nat) (s : State) : (payloadLoop k s).buf = s.buf := by
  simp only [payloadLoop]; split_ifs <;> rfl
@[simp] theorem payloadLoop_sclRef (k : Nat) (s : State) : (payloadLoop k s).sclRef = s.sclRef := by
  simp only [payloadLoop]; split_ifs <;> rfl
@[simp] theorem payloadLoop_sdaRef (k : Nat) (s : State) : (payloadLoop k s).sdaRef = s.sdaRef := by
  simp only [payloadLoop]; split_ifs <;> rfl
@[simp] theorem payloadLoop_status (k : Nat) (s : State) : (payloadLoop k s).status = s.status := by
  simp only [payloadLoop]; split_ifs <;> rfl
@[simp] theorem payloadLoop_sr (k : Nat) (s : State) : (payloadLoop k s).sr = s.sr := by
  simp only [payloadLoop]; split_ifs <;> rfl
@[simp] theorem payloadLoop_bitcnt (k : Nat) (s : State) : (payloadLoop k s).bitcnt = s.bitcnt := by
  simp only [payloadLoop]; split_ifs <;> rfl
@[simp] theorem payloadLoop_ackbit (k : Nat) (s : State) : (payloadLoop k s).ackbit = s.ackbit := by
  simp only [payloadLoop]; split_ifs <;> rfl
@[simp] theorem payloadLoop_dlyWait (k : Nat) (s : State) : (payloadLoop k s).dlyWait = s.dlyWait := by
  simp only [payloadLoop]; split_ifs <;> rfl
@[simp] theorem payloadLoop_out (k : Nat) (s : State) : (payloadLoop k s).out = s.out := by
  simp only [payloadLoop]; split_ifs <;> rfl
@[simp] theorem payloadLoop_drvLow (k : Nat) (s : State) : (payloadLoop k s).drvLow = s.drvLow := by
  simp only [payloadLoop]; split_ifs <;> rfl
@[simp] theorem payloadLoop_tcnt (k : Nat) (s : State) : (payloadLoop k s).tcnt = s.tcnt := by
  simp only [payloadLoop]; split_ifs <;> rfl
@[simp] theorem payloadLoop_mem (k : Nat) (s : State) : (payloadLoop k s).mem = s.mem := by
  simp only [payloadLoop]; split_ifs <;> rfl
@[simp] theorem payloadLoop_env (k : Nat) (s : State) : (payloadLoop k s).env = s.env := by
  simp only [payloadLoop]; split_ifs <;> rfl
@[simp] theorem payloadLoop_clock (k : Nat) (s : State) : (payloadLoop k s).clock = s.clock := by
  simp only [payloadLoop]; split_ifs <;> rfl
@[simp] theorem payloadLoop_trace (k : Nat) (s : State) : (payloadLoop k s).trace = s.trace := by
  simp only [payloadLoop]; split_ifs <;> rfl

@[simp] theorem afterCheck_par (k : Nat) (s : State) : (afterCheck k s).par = s.par := by
  simp only [afterCheck, payloadLoop]; split_ifs <;> rfl
@[simp] theorem afterCheck_cmd (k : Nat) (s : State) : (afterCheck k s).cmd = s.cmd := by
  simp only [afterCheck, payloadLoop]; split_ifs <;> rfl
@[simp] theorem afterCheck_len (k : Nat) (s : State) : (afterCheck k s).len = s.len := by
  simp only [afterCheck, payloadLoop]; split_ifs <;> rfl
@[simp] theorem afterCheck_buf (k : Nat) (s : State) : (afterCheck k s).buf = s.buf := by
  simp only [afterCheck, payloadLoop]; split_ifs <;> rfl
@[simp] theorem afterCheck_sclRef (k : Nat) (s : State) : (afterCheck k s).sclRef = s.sclRef := by
  simp only [afterCheck, payloadLoop]; split_ifs <;> rfl
@[simp] theorem afterCheck_sdaRef (k : Nat) (s : State) : (afterCheck k s).sdaRef = s.sdaRef := by
  simp only [afterCheck, payloadLoop]; split_ifs <;> rfl
@[simp] theorem afterCheck_status (k : Nat) (s : State) : (afterCheck k s).status = s.status := by
  simp only [afterCheck, payloadLoop]; split_ifs <;> rfl
@[simp] theorem afterCheck_sr (k : Nat) (s : State) : (afterCheck k s).sr = s.sr := by
  simp only [afterCheck, payloadLoop]; split_ifs <;> rfl
@[simp] theorem afterCheck_bitcnt (k : Nat) (s : State) : (afterCheck k s).bitcnt = s.bitcnt := by
  simp only [afterCheck, payloadLoop]; split_ifs <;> rfl
@[simp] theorem afterCheck_ackbit (k : Nat) (s : State) : (afterCheck k s).ackbit = s.ackbit := by
  simp only [afterCheck, payloadLoop]; split_ifs <;> rfl
@[simp] theorem afterCheck_dlyWait (k : Nat) (s : State) : (afterCheck k s).dlyWait = s.dlyWait := by
  simp only [afterCheck, payloadLoop]; split_ifs <;> rfl
@[simp] theorem afterCheck_out (k : Nat) (s : State) : (afterCheck k s).out = s.out := by
  simp only [afterCheck, payloadLoop]; split_ifs <;> rfl
@[simp] theorem afterCheck_drvLow (k : Nat) (s : State) : (afterCheck k s).drvLow = s.drvLow := by
  simp only [afterCheck, payloadLoop]; split_ifs <;> rfl
@[simp] theorem afterCheck_tcnt (k : Nat) (s : State) : (afterCheck k s).tcnt = s.tcnt := by
  simp only [afterCheck, payloadLoop]; split_ifs <;> rfl
@[simp] theorem afterCheck_mem (k : Nat) (s : State) : (afterCheck k s).mem = s.mem := by
  simp only [afterCheck, payloadLoop]; split_ifs <;> rfl
@[simp] theorem afterCheck_env (k : Nat) (s : State) : (afterCheck k s).env = s.env := by
  simp only [afterCheck, payloadLoop]; split_ifs <;> rfl
@[simp] theorem afterCheck_clock (k : Nat) (s : State) : (afterCheck k s).clock = s.clock := by
  simp only [afterCheck, payloadLoop]; split_ifs <;> rfl
@[simp] theorem afterCheck_trace (k : Nat) (s : State) : (afterCheck k s).trace = s.trace := by
  simp only [afterCheck, payloadLoop]; split_ifs <;> rfl

end Sys2Proof.Machine
end

