-- ==== Sys2Proof/Laws/Ops.lean ====
section
/-! SUPPORT. One lemma for each shared operation that says everything it can do. -/

namespace Sys2Proof.Machine

/-! ### Line actions -/

/-- After `LineHigh` the line's pin is released and every other pin as before (40_delay_and_lines R92). -/
theorem setLineHigh_drv (l : Line) (s : State) (r : Nat) :
    (setLineHigh l s).drv r = if r = s.lineRef l then .rel else s.drv r := by
  simp only [State.drv, setLineHigh_drvLow, drivenLow_setDrive]
  by_cases h : r = s.lineRef l <;> simp [h]

/-- After `LineLow` the line's pin is driven low and every other pin as before (40_delay_and_lines R93). -/
theorem setLineLow_drv (l : Line) (s : State) (r : Nat) :
    (setLineLow l s).drv r = if r = s.lineRef l then .low else s.drv r := by
  simp only [State.drv, setLineLow_drvLow, drivenLow_setDrive]
  by_cases h : r = s.lineRef l <;> simp [h]

/-- What a read of SDA returns, by SDA's drive state (10_state R36). -/
theorem sdaRead_of_drv (s : State) :
    s.sdaRead = if s.drv s.sdaRef = .low then 0#1 else s.now.sdaLevel := by
  simp only [State.sdaRead, State.drv]
  by_cases h : drivenLow s.drvLow s.sdaRef = true <;> simp [h]

/-! ### Micro-op words -/

/-- A word is its code followed by its other bits (30_encoding R77). -/
theorem code_append_arg (w : Word) : (w.extractLsb' 12 4 ++ w.extractLsb' 0 12 : BitVec (4 + 12)) = w := by
  ext i hi
  simp only [BitVec.getElem_append, BitVec.getElem_extractLsb']
  split
  · simp [BitVec.getLsbD_eq_getElem hi]
  · rename_i h
    rw [show 12 + (i - 12) = i by omega]
    exact BitVec.getLsbD_eq_getElem hi

/-- The micro-op begun is the one whose word was put into `UOP`. -/
@[simp] theorem issue_uopWord (i : Instr) (s : State) : (s.issue i).uopWord = encode i := code_append_arg _

/-! ### The delay -/

/-- A step of a delay begins it, ends it, or waits (40_delay_and_lines R90). -/
theorem delayStep_cases (fin : State → State) (s : State) :
    (s.dlyWait = 0#1 ∧ delayStep fin s = beginDelay s) ∨
      (s.dlyWait = 1#1 ∧ s.par.halfTicks ≤ s.tcnt ∧ delayStep fin s = fin (endDelay s)) ∨
      (s.dlyWait = 1#1 ∧ s.tcnt < s.par.halfTicks ∧ delayStep fin s = s.noAction) := by
  unfold delayStep State.delayOver
  have hb : s.dlyWait = 0#1 ∨ s.dlyWait = 1#1 := by
    generalize s.dlyWait = b
    revert b
    decide
  rcases hb with h | h
  · exact .inl ⟨h, if_pos h⟩
  · have hne : s.dlyWait ≠ 0#1 := by rw [h]; decide
    rw [if_neg hne]
    by_cases ho : s.par.halfTicks ≤ s.tcnt
    · exact .inr (.inl ⟨h, ho, by simp [ho]⟩)
    · exact .inr (.inr ⟨h, by omega, by simp [ho]⟩)

/-! ### The end of a bit -/

/-- The end of a bit ends the micro-op when no bit is left and goes on otherwise (42_byte_shift R120, R121). -/
theorem endBit_cases (s : State) :
    (s.bitcnt = 1#4 ∧ endBit s = { s with bitcnt := 0#4, upos := 0, due := .ended }) ∨
      (s.bitcnt ≠ 1#4 ∧ endBit s = { s with bitcnt := s.bitcnt - 1#4, upos := s.upos + 1 }) := by
  unfold endBit
  by_cases h : s.bitcnt = 1#4
  · refine .inl ⟨h, ?_⟩
    simp [h, State.endUop]
  · refine .inr ⟨h, ?_⟩
    have hz : s.bitcnt - 1#4 ≠ 0#4 := fun hz => h (by
      generalize s.bitcnt = b at hz
      revert b
      decide)
    simp [hz, State.nextPos]

/-! ### Command accept -/

/-- The three cases of an offered command (44_transactions R160). -/
theorem acceptCommand_cases (w : Word) (s : State) :
    (s.cmdReady = false ∧ acceptCommand w s = .next s.noAction) ∨
      (s.cmdReady = true ∧ (offerNow w s).wf s.par = false ∧ acceptCommand w s = .refused .illegalCommand) ∨
      (s.cmdReady = true ∧ (offerNow w s).wf s.par = true ∧
        acceptCommand w s = .next (latchCommand (offerNow w s) s)) := by
  unfold acceptCommand admitted
  cases s.cmdReady with
  | false => exact .inl ⟨rfl, rfl⟩
  | true => cases (offerNow w s).wf s.par with
    | false => exact .inr (.inl ⟨rfl, rfl, rfl⟩)
    | true => exact .inr (.inr ⟨rfl, rfl, rfl⟩)

/-! ### The sequencer -/

/-- The loop test goes to STOP with success, to a payload read, or to RX_BYTE (44_transactions R161, R162). -/
theorem payloadLoop_cases (k : Nat) (s : State) :
    (s.len ≤ k ∧ payloadLoop k s = enterStop .success { s with idx := k }) ∨
      (k < s.len ∧ s.rw = 0#1 ∧ payloadLoop k s = { s with idx := k, phase := phaseCode .data, due := .memRead }) ∨
      (k < s.len ∧ s.rw = 1#1 ∧
        payloadLoop k s = { State.issue .rxByte { s with idx := k } with phase := phaseCode .data }) := by
  have hb : s.rw = 0#1 ∨ s.rw = 1#1 := by
    generalize s.rw = b
    revert b
    decide
  unfold payloadLoop
  by_cases h : k < s.len
  · rcases hb with hw | hw
    · exact .inr (.inl ⟨h, hw, by simp [h, hw]⟩)
    · exact .inr (.inr ⟨h, hw, by simp [h, hw]⟩)
  · exact .inl ⟨by omega, by simp [h]⟩

/-- A buffer access answers a next state inside the address space and a fault outside it (20_memory R52). -/
theorem readPayload_cases (s : State) :
    (s.byteAddr < 2 ^ s.par.addrWidth ∧ ∃ t, readPayload s = .next t ∧ t.mem = s.mem ∧
        t.trace = s.trace ++ [.memRead s.byteAddr (readByte s.mem s.byteAddr)]) ∨
      (2 ^ s.par.addrWidth ≤ s.byteAddr ∧ readPayload s = .fault .noSuchAddress) := by
  unfold readPayload
  by_cases h : s.byteAddr < 2 ^ s.par.addrWidth
  · exact .inl ⟨h, _, if_pos h, rfl, rfl⟩
  · exact .inr ⟨by omega, if_neg h⟩

/-- As `readPayload_cases`, for the write of a received byte. -/
theorem writePayload_cases (s : State) :
    (s.byteAddr < 2 ^ s.par.addrWidth ∧ ∃ t, writePayload s = .next t ∧ t.mem = writeByte s.mem s.byteAddr s.sr ∧
        t.trace = s.trace ++ [.memWrite s.byteAddr s.sr]) ∨
      (2 ^ s.par.addrWidth ≤ s.byteAddr ∧ writePayload s = .fault .noSuchAddress) := by
  unfold writePayload
  by_cases h : s.byteAddr < 2 ^ s.par.addrWidth
  · exact .inl ⟨h, _, if_pos h, rfl, rfl⟩
  · exact .inr ⟨by omega, if_neg h⟩

/-! ### The environment's part of a step -/

/-- While the block is busy the environment leaves the command's two pins alone (20_memory R62). -/
theorem envStep_drv_of_busy {s : State} (h : s.busy = 1#1) {r : Nat} (hr : r = s.sclRef ∨ r = s.sdaRef) :
    (envStep s).drv r = s.drv r := by
  have : othersMayDrive s r = false := by
    rcases hr with rfl | rfl <;> simp [othersMayDrive, h]
  simp only [State.drv, envStep_drvLow, drivenLow_pinActs this]

/-- While the block is busy the environment leaves the command's buffer range alone (20_memory R61). -/
theorem envStep_readByte_of_busy {s : State} (hb : s.busy = 1#1) (hm : Memory.wf s.mem = true) {a : Nat}
    (h1 : s.buf ≤ a) (h2 : a < s.buf + s.len) : readByte (envStep s).mem a = readByte s.mem a := by
  have : hostMayWrite s a = false := by
    simp [hostMayWrite, hb]
    omega
  simp only [envStep_mem, readByte_hostWrites hm this]

/-- `TCNT` fits its width after the environment's part of a step (10_state R37). -/
theorem ticked_lt (p : Params) (i : Inputs) (t : Nat) : ticked p i t < 2 ^ p.timerWidth := by
  unfold ticked
  split
  · assumption
  · exact Nat.mod_lt _ (Nat.two_pow_pos _)

end Sys2Proof.Machine
end

