-- ==== Sys2Proof/Laws/PerInstr.lean ====
section
/-! SUPPORT. A fact about each operation as syntax: its word belongs to its own row of the opcode table and to no other
(30_encoding R72, R78, R82). -/

namespace Sys2Proof.Laws.EncodesInItsRow

/-- The word of `i` matches the row of `i` and no other row. -/
def Statement (i : Instr) : Prop := ∀ r ∈ cmdRows ++ uopRows, rowHits r (encode i) = true ↔ r = rowOf i

theorem write (addr : BitVec 7) : Statement (.write addr) := by
  unfold Statement; revert addr; decide

theorem read (addr : BitVec 7) : Statement (.read addr) := by
  unfold Statement; revert addr; decide

theorem delayHalf : Statement .delayHalf := by unfold Statement; decide

theorem lineHigh (line : Line) : Statement (.lineHigh line) := by cases line <;> (unfold Statement; decide)

theorem lineLow (line : Line) : Statement (.lineLow line) := by cases line <;> (unfold Statement; decide)

theorem lineRead : Statement .lineRead := by unfold Statement; decide

theorem start : Statement .start := by unfold Statement; decide

theorem stop : Statement .stop := by unfold Statement; decide

theorem txByte (imm : Byte) : Statement (.txByte imm) := by
  unfold Statement; revert imm; decide

theorem rxByte : Statement .rxByte := by unfold Statement; decide

theorem checkAck : Statement .checkAck := by unfold Statement; decide

theorem sendAck : Statement .sendAck := by unfold Statement; decide

theorem sendNack : Statement .sendNack := by unfold Statement; decide

end Sys2Proof.Laws.EncodesInItsRow
end

