-- ==== Sys2Proof/Laws/Step.lean ====
section
/-! SUPPORT. Everything a step can do, said once (60_exceptions R196). -/

namespace Sys2Proof.Machine

/-- The core's part of a step, before the environment's. -/
inductive CoreStep (s : State) : State → Prop where
  /-- `rst` is 1. -/
  | reset (h : fetch s = .reset) : CoreStep s (resetBlock s)
  /-- IDLE with nothing to accept. -/
  | wait (h : fetch s = .wait) : CoreStep s s.noAction
  /-- An operation answered a next state. -/
  | run (i : Instr) (t : State) (h : fetch s = .run i) (he : exec i s = .next t) : CoreStep s t
  /-- The sequencer chose what follows. -/
  | choose (t : State) (h : fetch s = .choose) (he : sequence s = .next t) : CoreStep s t
  /-- A payload byte was read. -/
  | memRead (t : State) (h : fetch s = .memRead) (he : readPayload s = .next t) : CoreStep s t
  /-- A received byte was written. -/
  | memWrite (t : State) (h : fetch s = .memWrite) (he : writePayload s = .next t) : CoreStep s t
  /-- The command completed. -/
  | complete (h : fetch s = .complete) : CoreStep s (completeCommand s.result s)

theorem thenEnv_next {a : Answer} {t : State} (h : thenEnv a = .next t) : ∃ r, a = .next r ∧ t = envStep r := by
  cases a with
  | next r => exact ⟨r, rfl, by simpa [thenEnv] using h.symm⟩
  | fault f => simp [thenEnv] at h
  | refused f => simp [thenEnv] at h

/-- If a step answers a next state, the core did one of its seven things and then the environment did its part. -/
theorem step_next {s t : State} (h : step s = .next t) : ∃ r, CoreStep s r ∧ t = envStep r := by
  unfold step at h
  split at h
  · rename_i hf
    obtain ⟨r, hr, rfl⟩ := thenEnv_next h
    exact ⟨_, .reset hf, by cases hr; rfl⟩
  · rename_i hf
    obtain ⟨r, hr, rfl⟩ := thenEnv_next h
    exact ⟨_, .wait hf, by cases hr; rfl⟩
  · rename_i i hf
    obtain ⟨r, hr, rfl⟩ := thenEnv_next h
    exact ⟨r, .run i r hf hr, rfl⟩
  · rename_i hf
    obtain ⟨r, hr, rfl⟩ := thenEnv_next h
    exact ⟨r, .choose r hf hr, rfl⟩
  · rename_i hf
    obtain ⟨r, hr, rfl⟩ := thenEnv_next h
    exact ⟨r, .memRead r hf hr, rfl⟩
  · rename_i hf
    obtain ⟨r, hr, rfl⟩ := thenEnv_next h
    exact ⟨r, .memWrite r hf hr, rfl⟩
  · rename_i hf
    obtain ⟨r, hr, rfl⟩ := thenEnv_next h
    exact ⟨_, .complete hf, by cases hr; rfl⟩
  · simp at h
  · simp at h

end Sys2Proof.Machine
end

