-- ==== Sys2Proof/Tests/Slice0.lean ====
section
/-! SUPPORT. Tests with expected results taken from spec/, and for every statement that has hypotheses a state that meets
all of them. -/

namespace Sys2Proof.Tests

open Sys2Proof.Machine Sys2Proof.Safety

/-! ### Well-formedness: an ill-formed term for each check (30_encoding R75, R79, R83) -/

/-- An admissible offer: `write 0x50, 0x2000, 1, P1.6, P1.7` (30_encoding R84). -/
def goodOffer : Offer := ⟨0x01A0, 1, 0x2000, 0x16, 0x17⟩

/-- An admissible call, the example of 30_encoding R84. -/
def goodCall : HostCall := ⟨false, 0x50, 0x2000, 1, ⟨1, 6⟩, ⟨1, 7⟩⟩

theorem test_good_offer_admitted : goodOffer.wf Params.example = true := by decide
theorem test_wf_rsvd_refuses : wfRsvd { goodOffer with word := 0x11A0 } = false := by decide
theorem test_wf_op_refuses : wfOp { goodOffer with word := 0x0201 } = false := by decide
theorem test_wf_pins_refuses : wfPinsDistinct { goodOffer with sda := 0x16 } = false := by decide
theorem test_wf_range_refuses :
    wfBufRange Params.example { goodOffer with buf := 0xFFFFFFFF, len := 2 } = false := by decide
theorem test_wf_range_boundary :
    wfBufRange Params.example { goodOffer with buf := 0xFFFFFFFF, len := 1 } = true := by decide
theorem test_wf_uop_code_refuses : wfUopCode 0xC000 = false ∧ wfUopCode 0x0000 = false := by decide
theorem test_wf_uop_rsvd_refuses : wfUopRsvd 0x1200 = false := by decide
theorem test_wf_uop_lsel_refuses : wfUopLsel 0x5100 = false ∧ wfUopLsel 0x4000 = false := by decide
theorem test_wf_uop_imm_refuses : wfUopImm 0x8001 = false := by decide
theorem test_wf_call_addr_refuses : wfCallAddr { goodCall with addr := 0x80 } = false := by decide
theorem test_wf_call_widths_refuses : wfCallWidths Params.example { goodCall with len := 65536 } = false := by decide
theorem test_params_wf : Params.example.wf = true := by decide
theorem test_params_wf_refuses : ({ Params.example with halfTicks := 65536 } : Params).wf = false := by decide

/-! ### Decoding of words written out from the spec's tables (95_test_vectors V1, 2.1, 2.2) -/

theorem test_decode_write : decode 0b0000000110100000 = .ok (.write 0x50) := by decide
theorem test_decode_read : decode 0b0000000111010001 = .ok (.read 0x68) := by decide
theorem test_decode_delay : decode 0b0001000000000000 = .ok .delayHalf := by decide
theorem test_decode_line_high_scl : decode 0b0010000000000000 = .ok (.lineHigh .scl) := by decide
theorem test_decode_line_high_sda : decode 0b0010000100000000 = .ok (.lineHigh .sda) := by decide
theorem test_decode_line_low_scl : decode 0b0011000000000000 = .ok (.lineLow .scl) := by decide
theorem test_decode_line_low_sda : decode 0b0011000100000000 = .ok (.lineLow .sda) := by decide
theorem test_decode_line_read : decode 0b0100000100000000 = .ok .lineRead := by decide
theorem test_decode_start : decode 0b0101000000000000 = .ok .start := by decide
theorem test_decode_stop : decode 0b0110000000000000 = .ok .stop := by decide
theorem test_decode_tx : decode 0b0111000010100101 = .ok (.txByte 0xA5) := by decide
theorem test_decode_rx : decode 0b1000000000000000 = .ok .rxByte := by decide
theorem test_decode_check : decode 0b1001000000000000 = .ok .checkAck := by decide
theorem test_decode_send_ack : decode 0b1010000000000000 = .ok .sendAck := by decide
theorem test_decode_send_nack : decode 0b1011000000000000 = .ok .sendNack := by decide
theorem test_decode_reserved_cmd :
    decodeCmd 0x0000 = .error .cmdOp ∧ decodeCmd 0x0201 = .error .cmdOp ∧ decodeCmd 0x11A0 = .error .cmdRsvd ∧
      decodeCmd 0xF1A0 = .error .cmdRsvd := by decide
theorem test_decode_reserved_uop :
    decodeUop 0x4000 = .error .uopLsel ∧ decodeUop 0x5100 = .error .uopLsel ∧ decodeUop 0x8001 = .error .uopImm ∧
      decodeUop 0x1200 = .error .uopRsvd ∧ decodeUop 0x0000 = .error .uopCode ∧
      decodeUop 0xC000 = .error .uopCode := by decide
theorem test_address_byte :
    addrByteOf 0x01A0 = 0xA0 ∧ addrByteOf 0x01A1 = 0xA1 ∧ addrByteOf 0x01FF = 0xFF := by decide
theorem test_call_text : callText goodCall = "write 80, 8192, 1, P1.6, P1.7" := by decide
theorem test_transcribe : transcribe Params.example goodCall = some ⟨0x01A0, 1, 0x2000, 0x16, 0x17⟩ := by decide

/-! ### States for the tests -/

/-- A host that offers a command, with the bus pulled up and the timer stalled. -/
def offering (w : Word) (len buf scl sda : Nat) : Inputs :=
  { Inputs.quiet with cmdValid := true, cmdWord := w, cmdLen := len, cmdBuf := buf, cmdScl := scl, cmdSda := sda }

/-- The reset state with one step's inputs listed. -/
def idle (x : Inputs) : State := { State.reset with env := [x] }

/-- A state inside the command `w` on pins 0x16, 0x17 with `LEN` 2 and `BUF` 0x2000: micro-op `i` at action `k`. -/
def during (w : Word) (ph : Phase) (i : Instr) (k : Nat) (dly : Bit) (low : List Nat) (x : Inputs) : State :=
  { State.issue i (idle x) with
    cmd := w, len := 2, buf := 0x2000, sclRef := 0x16, sdaRef := 0x17, status := 0x01, phase := phaseCode ph,
    upos := k, dlyWait := dly, drvLow := low }

/-- The state after an answer, or the reset state. -/
def after : Answer → State
  | .next s => s
  | .fault _ => State.reset
  | .refused _ => State.reset

/-- Whether an answer is a next state. -/
def isNext : Answer → Bool
  | .next _ => true
  | .fault _ => false
  | .refused _ => false

theorem next_of_isNext {a : Answer} (h : isNext a = true) : a = .next (after a) := by
  cases a with
  | next s => rfl
  | fault f => simp [isNext] at h
  | refused r => simp [isNext] at h

/-- The refusal of an answer. -/
def refusalOf : Answer → Option Refusal
  | .next _ => none
  | .fault _ => none
  | .refused r => some r

/-- The fault of an answer. -/
def faultOf : Answer → Option Fault
  | .next _ => none
  | .fault f => some f
  | .refused _ => none

/-- An environment whose timer advances five ticks a step. -/
def ticking : Inputs := { Inputs.quiet with ticks := 5 }

/-! ### The machine, one step at a time (95_test_vectors) -/

/-- 95_test_vectors 2.10 and V2: accept gives `STATUS` 0x01, `PHASE` START. -/
theorem test_accept :
    (after (step (idle (offering 0x01A0 1 0x2000 0x16 0x17)))).status = 0x01 ∧
      (after (step (idle (offering 0x01A0 1 0x2000 0x16 0x17)))).phase = 1 := by decide

/-- 95_test_vectors 2.1: `0xFFFFFFFF + 1 = 2^32` is admitted, one more is refused. -/
theorem test_buffer_boundary :
    isNext (step (idle (offering 0x01A0 1 0xFFFFFFFF 0x16 0x17))) = true ∧
      refusalOf (step (idle (offering 0x01A0 2 0xFFFFFFFF 0x16 0x17))) = some .illegalCommand := by decide

/-- 95_test_vectors 2.1: reserved words and equal pins are refused. -/
theorem test_refused :
    refusalOf (step (idle (offering 0x0201 1 0 0x16 0x17))) = some .illegalCommand ∧
      refusalOf (step (idle (offering 0x11A0 1 0 0x16 0x17))) = some .illegalCommand ∧
      refusalOf (step (idle (offering 0x01A0 1 0 0x16 0x16))) = some .illegalCommand := by decide

/-- 40_delay_and_lines R92: the example. -/
theorem test_line_high :
    (after (exec (.lineHigh .sda) (during 0x01A0 .start .start 0 0 [0x17] .quiet))).drv 0x17 = .rel ∧
      (after (exec (.lineHigh .sda) (during 0x01A0 .start .start 0 0 [0x17] .quiet))).trace = [.high 0x17] := by
  decide

/-- 40_delay_and_lines R93: the example. -/
theorem test_line_low :
    (after (exec (.lineLow .scl) (during 0x01A0 .start .start 0 0 [] .quiet))).drv 0x16 = .low ∧
      (after (exec (.lineLow .scl) (during 0x01A0 .start .start 0 0 [] .quiet))).trace = [.low 0x16] := by
  decide

/-- 95_test_vectors 2.4: a read of SDA is the bus's draw while it is released, 0 while it is driven low. -/
theorem test_line_read :
    (after (exec .lineRead (during 0x01A0 .start .start 0 0 [] .quiet))).trace = [.sample 0x17 1] ∧
      (after (exec .lineRead (during 0x01A0 .start .start 0 0 [0x17] .quiet))).trace = [.sample 0x17 0] := by
  decide

/-- 95_test_vectors 2.3: threshold 5, `TCNT` 7 before the reset is irrelevant. -/
theorem test_delay_begins :
    (after (exec .delayHalf { during 0x01A0 .start .start 0 0 [] .quiet with tcnt := 7 })).tcnt = 0 := by decide

/-- 95_test_vectors 2.3: at 4 the poll goes on, at 5 and at 6 (a poll missed 5) the delay ends. -/
theorem test_delay_threshold :
    (after (exec .delayHalf { during 0x01A0 .start .start 0 1 [] .quiet with tcnt := 4 })).dlyWait = 1 ∧
      (after (exec .delayHalf { during 0x01A0 .start .start 0 1 [] .quiet with tcnt := 5 })).dlyWait = 0 ∧
      (after (exec .delayHalf { during 0x01A0 .start .start 0 1 [] .quiet with tcnt := 6 })).dlyWait = 0 := by
  decide

/-- 41_start_stop R110: action 3 of START is `L(d)`, the start condition. -/
theorem test_start_condition :
    (after (exec .start (during 0x01A0 .start .start 3 0 [] .quiet))).trace = [.low 0x17] := by decide

/-- 41_start_stop R110: SDA is released before SCL. -/
theorem test_start_order :
    (after (exec .start (during 0x01A0 .start .start 0 0 [0x16, 0x17] .quiet))).drvLow = [0x16] := by decide

/-- 41_start_stop R111: action 5 of STOP is `H(d)`, the stop condition; action 0 is `L(c)`. -/
theorem test_stop_condition :
    (after (exec .stop (during 0x01A0 .stop .stop 5 0 [0x17] .quiet))).trace = [.high 0x17] ∧
      (after (exec .stop (during 0x01A0 .stop .stop 0 0 [] .quiet))).trace = [.low 0x16] := by decide

/-- 42_byte_shift R120: the first bit of 0xA0 is a 1, of 0x01 a 0. -/
theorem test_tx_first_bit :
    (after (exec (.txByte 0xA0) (during 0x01A0 .address (.txByte 0xA0) 0 0 [0x16] .quiet))).trace = [.high 0x17] ∧
      (after (exec (.txByte 0x01) (during 0x01A0 .address (.txByte 0x01) 0 0 [0x16] .quiet))).trace = [.low 0x17] := by
  decide

/-- 42_byte_shift R120: after the last bit `SR` is 0x00 and `BITCNT` 0, and the micro-op has ended. -/
theorem test_tx_end :
    let s := { during 0x01A0 .address (.txByte 0x81) 39 1 [0x16] .quiet with sr := 0x80, bitcnt := 1, tcnt := 5 }
    (after (exec (.txByte 0x81) s)).sr = 0 ∧ (after (exec (.txByte 0x81) s)).bitcnt = 0 ∧
      (after (exec (.txByte 0x81) s)).due = .ended := by decide

/-- 42_byte_shift R121: a sample is shifted into bit 0. -/
theorem test_rx_sample :
    (after (exec .rxByte { during 0x01A1 .data .rxByte 3 0 [] .quiet with sr := 0xC3 })).sr = 0x87 := by decide

/-- 42_byte_shift R121: RX_BYTE begins by releasing SDA and loading `BITCNT` with 8. -/
theorem test_rx_begins :
    (after (exec .rxByte (during 0x01A1 .data .rxByte 0 0 [0x16, 0x17] .quiet))).bitcnt = 8 ∧
      (after (exec .rxByte (during 0x01A1 .data .rxByte 0 0 [0x16, 0x17] .quiet))).drvLow = [0x16] := by decide

/-- 95_test_vectors 2.8: CHECK_ACK with a draw of 1 and of 0. -/
theorem test_check_ack :
    (after (exec .checkAck (during 0x01A0 .address .checkAck 3 0 [] .quiet))).ackbit = 1 ∧
      (after (exec .checkAck { during 0x01A0 .address .checkAck 3 0 [] { Inputs.quiet with sdaLevel := 0 } with
        ackbit := 1 })).ackbit = 0 := by decide

/-- 43_ack R141: SEND_ACK drives SDA low first and releases it right after SCL falls. -/
theorem test_send_ack :
    (after (exec .sendAck (during 0x01A1 .data .sendAck 0 0 [0x16] .quiet))).trace = [.low 0x17] ∧
      (after (exec .sendAck (during 0x01A1 .data .sendAck 4 0 [0x16, 0x17] .quiet))).trace = [.high 0x17] := by decide

/-- 43_ack R142: SEND_NACK repeats the release of SDA as one action. -/
theorem test_send_nack :
    (after (exec .sendNack (during 0x01A1 .data .sendNack 0 0 [0x16] .quiet))).trace = [.high 0x17] := by decide

/-- 44_transactions R161: after START, TX_BYTE of the address byte 0xA0. -/
theorem test_address_phase :
    (after (step { during 0x01A0 .start .start 0 0 [] .quiet with due := .ended })).uopWord = 0x70A0 ∧
      (after (step { during 0x01A0 .start .start 0 0 [] .quiet with due := .ended })).phase = 2 := by decide

/-- 44_transactions R167: WRITE with `LEN` 0 goes from the address check to STOP. -/
theorem test_zero_length :
    (after (step { during 0x01A0 .address .checkAck 0 0 [] .quiet with due := .ended, len := 0 })).uopWord = 0x6000 := by
  decide

/-- 44_transactions R161: the payload byte 0xA5 at `BUF` is read and given to TX_BYTE (95_test_vectors V2). -/
theorem test_payload_read :
    let s := { during 0x01A0 .data .checkAck 0 0 [] .quiet with due := .memRead, mem := [(0x2000, 0xA5)] }
    (after (step s)).uopWord = 0x70A5 ∧ (after (step s)).trace = [.memRead 0x2000 0xA5] := by decide

/-- 44_transactions R162: the last byte is answered by SEND_NACK, an earlier one by SEND_ACK (95_test_vectors V4). -/
theorem test_payload_write :
    let s := { during 0x01A1 .data .rxByte 0 0 [] .quiet with due := .memWrite, sr := 0x10 }
    (after (step s)).uopWord = 0xA000 ∧ (after (step { s with idx := 1 })).uopWord = 0xB000 ∧
      (after (step s)).mem = [(0x2000, 0x10)] := by decide

/-- 44_transactions R164, 95_test_vectors 2.10: 0x02 for success, 0x06 for failure. -/
theorem test_complete :
    let s := { during 0x01A0 .stop .stop 0 0 [] .quiet with due := .complete }
    (after (step s)).status = 0x02 ∧ (after (step { s with result := .ackFailure })).status = 0x06 := by decide

/-- 70_reset_and_hazards R211: a reset during a READ leaves the lines and the buffer, and `STATUS` is 0x00
(95_test_vectors P3). -/
theorem test_reset_mid_command :
    let s := { during 0x01D1 .data .rxByte 24 1 [0x16] { Inputs.quiet with rst := true } with mem := [(0x3000, 0xAA)] }
    (after (step s)).status = 0 ∧ (after (step s)).phase = 0 ∧ (after (step s)).drvLow = [0x16] ∧
      (after (step s)).mem = [(0x3000, 0xAA)] ∧ (after (step s)).trace = [] := by decide

/-- 20_memory R61: the host's write inside the buffer of a running command has no effect, outside it has. -/
theorem test_host_writes :
    let s := during 0x01A0 .start .start 0 0 [] { Inputs.quiet with hostWrites := [(0x2001, 7), (0x2002, 9)] }
    (after (step s)).mem = [(0x2002, 9)] := by decide

/-- 30_encoding R79: a reserved micro-op word faults. -/
theorem test_reserved_uop_faults :
    faultOf (step { during 0x01A0 .start .start 0 0 [] .quiet with uop := 0xC }) = some .reservedUop := by decide

/-- 10_state R27: an unused `PHASE` faults. -/
theorem test_unused_phase_faults : faultOf (step { idle .quiet with phase := 5 }) = some .reservedUop := by decide

/-- The word of every row runs as the first operation after reset. -/
theorem test_first_words_run :
    ([0x0100, 0x0101, 0x1000, 0x2000, 0x2100, 0x3000, 0x4100, 0x5000, 0x6000, 0x70A5, 0x8000, 0x9000, 0xA000, 0xB000].all
      fun w => isNext (step (State.reset.withFetchWord 16 w))) = true := by decide

end Sys2Proof.Tests
end

