-- ==== Sys2Proof/Tests/Witnesses.lean ====
section
/-! SUPPORT. For every statement that has hypotheses, a concrete state and operands that meet all of them together; for a
statement of several clauses, one for each clause. Each theorem's name begins with the statement's name. -/

namespace Sys2Proof.Tests

open Sys2Proof.Machine Sys2Proof.Safety

/-! ### Which operation a micro-op word is -/

theorem row_of_encode (j : Instr) : Sys2Proof.Laws.EncodesInItsRow.Statement j := by
  cases j with
  | write a => exact Laws.EncodesInItsRow.write a
  | read a => exact Laws.EncodesInItsRow.read a
  | delayHalf => exact Laws.EncodesInItsRow.delayHalf
  | lineHigh l => exact Laws.EncodesInItsRow.lineHigh l
  | lineLow l => exact Laws.EncodesInItsRow.lineLow l
  | lineRead => exact Laws.EncodesInItsRow.lineRead
  | start => exact Laws.EncodesInItsRow.start
  | stop => exact Laws.EncodesInItsRow.stop
  | txByte b => exact Laws.EncodesInItsRow.txByte b
  | rxByte => exact Laws.EncodesInItsRow.rxByte
  | checkAck => exact Laws.EncodesInItsRow.checkAck
  | sendAck => exact Laws.EncodesInItsRow.sendAck
  | sendNack => exact Laws.EncodesInItsRow.sendNack

/-- A word of row `r` is the encoding of an operation of that row only. -/
theorem row_of_word {w : Word} {j : Instr} {r : Row} (hr : r ∈ cmdRows ++ uopRows) (hw : rowHits r w = true)
    (h : w = encode j) : rowOf j = r :=
  ((row_of_encode j r hr).mp (h ▸ hw)).symm

theorem only_start {w : Word} {j : Instr} (hw : rowHits rowStart w = true) (h : w = encode j) : j = .start := by
  have := row_of_word (by decide) hw h
  cases j <;> first | rfl | exact absurd (show (_ : Row) = _ from this) (by simp only [rowOf]; decide)

theorem only_stop {w : Word} {j : Instr} (hw : rowHits rowStop w = true) (h : w = encode j) : j = .stop := by
  have := row_of_word (by decide) hw h
  cases j <;> first | rfl | exact absurd (show (_ : Row) = _ from this) (by simp only [rowOf]; decide)

theorem only_rx {w : Word} {j : Instr} (hw : rowHits rowRxByte w = true) (h : w = encode j) : j = .rxByte := by
  have := row_of_word (by decide) hw h
  cases j <;> first | rfl | exact absurd (show (_ : Row) = _ from this) (by simp only [rowOf]; decide)

/-! ### Sound states -/

/-- START at action `k`. -/
def inStart (k : Nat) (dly : Bit) (low : List Nat) (x : Inputs) : State := during 0x01A0 .start .start k dly low x

/-- STOP at action `k`. -/
def inStop (k : Nat) (dly : Bit) (low : List Nat) (x : Inputs) : State := during 0x01A0 .stop .stop k dly low x

/-- RX_BYTE of the first payload byte at action 3, its first sample. -/
def inRx : State := { during 0x01A1 .data .rxByte 3 0 [] .quiet with bitcnt := 8 }

/-- The payload write of a READ. -/
def atWrite : State := { during 0x01A1 .data .rxByte 0 0 [0x16] .quiet with due := .memWrite, sr := 0x10 }

/-- `Complete` of a WRITE with result `r`, the trace being `tr`. -/
def atComplete (w : Word) (len : Nat) (r : Result) (ack : Bit) (tr : List Event) : State :=
  { during w .stop .stop 0 0 [] .quiet with due := .complete, len := len, result := r, ackbit := ack, trace := tr }

theorem fits_reset (x : List Inputs) : FitsWidths { State.reset with env := x } := by
  refine ⟨rfl, ?_⟩
  show 0 < 2 ^ 16 ∧ 0 < 2 ^ 32 ∧ 0 < 2 ^ 8 ∧ 0 < 2 ^ 8 ∧ 0 < 2 ^ 16 ∧ 0 < 2 ^ 16 ∧ 0 < 2 ^ 8 ∧ 0 < 2 ^ 32 ∧ true = true ∧
    true = true ∧ true = true ∧ ∀ r ∈ ([] : List Nat), r < 2 ^ 8
  decide

theorem idle_sound (x : Inputs) : Sound (idle x) :=
  ⟨fits_reset [x], .inl ⟨rfl, .inl rfl, rfl⟩, fun h => absurd rfl h⟩

theorem during_uopWord (w : Word) (ph : Phase) (i : Instr) (k : Nat) (dly : Bit) (low : List Nat) (x : Inputs) :
    (during w ph i k dly low x).uopWord = encode i := code_append_arg _

theorem admitted_during (w : Word) (ph : Phase) (i : Instr) (k : Nat) (dly : Bit) (low : List Nat) (x : Inputs)
    (hw : w = encode (if rwOf w = 0#1 then .write (devAddrOf w) else .read (devAddrOf w))) :
    Admitted (during w ph i k dly low x) :=
  ⟨rfl, hw, (by decide : (0x16 : Nat) ≠ 0x17), (by decide : 0x2000 + 2 ≤ 2 ^ 32)⟩

theorem fits_during (w : Word) (ph : Phase) (i : Instr) (k : Nat) (dly : Bit) (x : Inputs) (low : List Nat)
    (hl : Pins.wf low = true ∧ ∀ r ∈ low, r < 2 ^ 8) : FitsWidths (during w ph i k dly low x) :=
  ⟨rfl, (by decide : 2 < 2 ^ 16), (by decide : 0x2000 < 2 ^ 32), (by decide : 0x16 < 2 ^ 8),
    (by decide : 0x17 < 2 ^ 8), (by decide : 0 < 2 ^ 16), (by decide : 0 < 2 ^ 16), (by decide : 0 < 2 ^ 8),
    (by decide : 0 < 2 ^ 32), rfl, rfl, hl.1, hl.2⟩

/-- A state inside START at position `k` is sound where its drive states are those of the step list. -/
theorem inStart_sound {k : Nat} {dly : Bit} {low : List Nat} {x : Inputs} (hk : k < 7)
    (hd : dly = 1#1 → delayAt .start k = true) (hl : Pins.wf low = true ∧ ∀ r ∈ low, r < 2 ^ 8)
    (hv : Drives (inStart k dly low x) (drivesAt .start k)) : Sound (inStart k dly low x) := by
  refine ⟨fits_during _ _ _ _ _ _ _ hl, .inr ⟨admitted_during _ _ _ _ _ _ _ (by decide),
    .inl ⟨rfl, during_uopWord _ _ _ _ _ _ _, .inl ⟨rfl, hk, hd, trivial⟩⟩⟩,
    fun _ => ⟨?_, ?_, ?_, ?_⟩⟩
  · intro i _ hi
    obtain rfl := only_start (by decide) ((during_uopWord _ _ .start _ _ _ _).symm.trans hi)
    exact hv
  · intro i h
    exact absurd (show Due.uop = Due.ended from h) (by decide)
  · intro h
    exact absurd (show Due.uop = Due.memRead ∨ Due.uop = Due.memWrite from h) (by decide)
  · intro h
    exact absurd (show Due.uop = Due.complete from h) (by decide)

/-- A state inside STOP at position `k` is sound where its drive states are those of the step list. -/
theorem inStop_sound {k : Nat} {dly : Bit} {low : List Nat} {x : Inputs} (hk : k < 7)
    (hd : dly = 1#1 → delayAt .stop k = true) (hl : Pins.wf low = true ∧ ∀ r ∈ low, r < 2 ^ 8)
    (hv : Drives (inStop k dly low x) (drivesAt .stop k)) : Sound (inStop k dly low x) := by
  refine ⟨fits_during _ _ _ _ _ _ _ hl, .inr ⟨admitted_during _ _ _ _ _ _ _ (by decide),
    .inr (.inr (.inr ⟨rfl, .inl ⟨during_uopWord _ _ _ _ _ _ _, .inl ⟨rfl, hk, hd, trivial⟩⟩,
      (by decide : Result.success = .ackFailure ↔ (0#1 : Bit) = 1#1)⟩))⟩,
    fun _ => ⟨?_, ?_, ?_, ?_⟩⟩
  · intro i _ hi
    obtain rfl := only_stop (by decide) ((during_uopWord _ _ .stop _ _ _ _).symm.trans hi)
    exact hv
  · intro i h
    exact absurd (show Due.uop = Due.ended from h) (by decide)
  · intro h
    exact absurd (show Due.uop = Due.memRead ∨ Due.uop = Due.memWrite from h) (by decide)
  · intro h
    exact absurd (show Due.uop = Due.complete from h) (by decide)

/-- The wait of the first delay of START. -/
def waiting (x : Inputs) : State := inStart 2 1 [] x

theorem waiting_sound (x : Inputs) : Sound (waiting x) :=
  inStart_sound (by decide) (by decide) (by decide)
    ⟨fun y h => (by decide : ∀ y, some Drive.rel = some y → Drive.rel = y) y h,
      fun y h => (by decide : ∀ y, some Drive.rel = some y → Drive.rel = y) y h⟩

theorem inRx_sound : Sound inRx := by
  have hu : inRx.uopWord = encode .rxByte := during_uopWord 0x01A1 .data .rxByte 3 0 [] .quiet
  refine ⟨fits_during 0x01A1 .data .rxByte 3 0 .quiet [] (by decide), .inr ⟨admitted_during 0x01A1 .data .rxByte 3 0 [] .quiet (by decide),
    .inr (.inr (.inl ⟨rfl, (by decide : 0 < 2), ?_, fun _ => ⟨rfl, .inl ⟨hu, .inl ⟨rfl, by decide, by decide, .inr rfl⟩⟩⟩⟩))⟩,
    fun _ => ⟨?_, ?_, ?_, ?_⟩⟩
  · intro h
    exact absurd h (by decide)
  · intro i _ hi
    obtain rfl := only_rx (by decide) (hu.symm.trans hi)
    exact ⟨fun y h => (by decide : ∀ y, some Drive.rel = some y → Drive.rel = y) y h,
      fun y h => (by decide : ∀ y, some Drive.rel = some y → Drive.rel = y) y h⟩
  · intro i h
    exact absurd (show Due.uop = Due.ended from h) (by decide)
  · intro h
    exact absurd (show Due.uop = Due.memRead ∨ Due.uop = Due.memWrite from h) (by decide)
  · intro h
    exact absurd (show Due.uop = Due.complete from h) (by decide)

theorem atWrite_sound : Sound atWrite := by
  refine ⟨fits_during 0x01A1 .data .rxByte 0 0 .quiet [0x16] (by decide),
    .inr ⟨admitted_during 0x01A1 .data .rxByte 0 0 [0x16] .quiet (by decide),
    .inr (.inr (.inl ⟨rfl, (by decide : 0 < 2), ?_, fun _ => ⟨rfl, .inr (.inl ⟨rfl, rfl⟩)⟩⟩))⟩,
    fun _ => ⟨?_, ?_, ?_, ?_⟩⟩
  · intro h
    exact absurd h (by decide)
  · intro i h
    exact absurd (show Due.memWrite = Due.uop from h) (by decide)
  · intro i h
    exact absurd (show Due.memWrite = Due.ended from h) (by decide)
  · exact fun _ => ⟨fun y h => (by decide : ∀ y, some Drive.low = some y → Drive.low = y) y h,
      fun y h => (by decide : ∀ y, some Drive.rel = some y → Drive.rel = y) y h⟩
  · intro h
    exact absurd (show Due.memWrite = Due.complete from h) (by decide)

theorem atComplete_sound (w : Word) (len : Nat) (r : Result) (ack : Bit) (tr : List Event)
    (hw : w = encode (if rwOf w = 0#1 then .write (devAddrOf w) else .read (devAddrOf w))) (hlen : len ≤ 2)
    (hr : r = .ackFailure ↔ ack = 1#1) : Sound (atComplete w len r ack tr) := by
  have hf := fits_during w .stop .stop 0 0 .quiet [] (by decide)
  refine ⟨⟨hf.1, lt_of_le_of_lt hlen (by decide : 2 < 2 ^ 16), hf.2.2⟩,
    .inr ⟨⟨rfl, hw, (by decide : (0x16 : Nat) ≠ 0x17),
      le_trans (Nat.add_le_add_left hlen 0x2000) (by decide : 0x2000 + 2 ≤ 2 ^ 32)⟩,
      .inr (.inr (.inr ⟨rfl, .inr ⟨during_uopWord w .stop .stop 0 0 [] .quiet, rfl, rfl⟩, hr⟩))⟩,
    fun _ => ⟨?_, ?_, ?_, ?_⟩⟩
  · intro i h
    exact absurd (show Due.complete = Due.uop from h) (by decide)
  · intro i h
    exact absurd (show Due.complete = Due.ended from h) (by decide)
  · intro h
    exact absurd (show Due.complete = Due.memRead ∨ Due.complete = Due.memWrite from h) (by decide)
  · exact fun _ => ⟨fun y h => (by decide : ∀ y, some Drive.rel = some y → Drive.rel = y) y h,
      fun y h => (by decide : ∀ y, some Drive.rel = some y → Drive.rel = y) y h⟩

/-! ### Encodings -/

theorem CommandWordsDecodeByTheirFields_witness :
    ((0x01A1#16).extractLsb' 12 4 = 0x0#4 ∧ (0x01A1#16).extractLsb' 8 4 = 0x1#4) ∧
      ¬ ((0x0201#16).extractLsb' 12 4 = 0x0#4 ∧ (0x0201#16).extractLsb' 8 4 = 0x1#4) := by decide

theorem EncodeOfDecodeIsTheWord_witness : decode 0x70A5 = .ok (.txByte 0xA5) := by decide

theorem ReservedMicroOpWordsFaultAndAreNeverMet_witness_step :
    let s := { inStart 0 0 [] .quiet with uop := 0xC }
    s.now.rst = false ∧ s.phase = 1#3 ∧ s.due = .uop ∧ ∃ e, decodeUop s.uopWord = .error e :=
  ⟨rfl, rfl, rfl, .uopCode, by decide⟩

theorem ReservedMicroOpWordsFaultAndAreNeverMet_witness_ended :
    let s := { inStart 0 0 [] .quiet with uop := 0x0, due := .ended }
    s.now.rst = false ∧ s.phase = 1#3 ∧ s.due = .ended ∧ ∃ e, decodeUop s.uopWord = .error e :=
  ⟨rfl, rfl, rfl, .uopCode, by decide⟩

theorem ReservedMicroOpWordsFaultAndAreNeverMet_witness_phase :
    let s := { inStart 0 0 [] .quiet with phase := 5 }
    s.now.rst = false ∧ 4#3 < s.phase := by decide

theorem ReservedMicroOpWordsFaultAndAreNeverMet_witness_sound :
    ControlSound (waiting .quiet) ∧ (waiting .quiet).phase ≠ 0#3 ∧ (waiting .quiet).due = .uop :=
  ⟨(waiting_sound .quiet).2.1, by decide, rfl⟩

theorem AtMostOneRowMatchesAWord_witness :
    rowWrite ∈ cmdRows ++ uopRows ∧ rowHits rowWrite 0x01A0 = true := by decide

theorem AddressByteIsAddressThenDirection_witness :
    let s := { inStart 0 0 [] .quiet with due := .ended }
    s.now.rst = false ∧ s.phase = 1#3 ∧ s.due = .ended ∧ s.uopWord = encode .start :=
  ⟨rfl, rfl, rfl, by decide⟩

theorem CallsAreEncodedAsTheSpecSays_witness :
    goodCall.wf Params.example = true ∧ ({ goodCall with addr := 0x7F } : HostCall).wf Params.example = true ∧
      0x7F < ({ goodCall with addr := 0x80 } : HostCall).addr := by decide

/-! ### Commands -/

theorem AdmissibleCommandIsAccepted_witness_write :
    let s := idle (offering 0x01A0 1 0xFFFFFFFF 0x16 0x17)
    s.cmdReady = true ∧ (offerNow (encode (.write 0x50)) s).wf s.par = true := by decide

theorem AdmissibleCommandIsAccepted_witness_read :
    let s := idle (offering 0x01A1 0 0xFFFFFFFF 0x16 0x17)
    s.cmdReady = true ∧ (offerNow (encode (.read 0x50)) s).wf s.par = true := by decide

theorem InadmissibleCommandIsRefused_witness :
    let s := idle (offering 0x01A0 2 0xFFFFFFFF 0x16 0x17)
    s.now.rst = false ∧ s.phase = 0#3 ∧ s.busy = 0#1 ∧ s.now.cmdValid = true := by decide

theorem BusyBlockHoldsACommand_witness_busy : (waiting .quiet).busy = 1#1 := by decide

theorem BusyBlockHoldsACommand_witness_rst : (idle { Inputs.quiet with rst := true }).now.rst = true := by decide

/-! ### Delays and micro-ops -/

/-- The first and the last sample of RX_BYTE, and the sample of CHECK_ACK. -/
theorem LineReadSamplesSda_witness :
    (during 0x01A1 .data .rxByte 3 0 [] .quiet).upos % 5 = 3 ∧
      (during 0x01A1 .data .rxByte 38 0 [] .quiet).upos % 5 = 3 ∧
      (during 0x01A1 .data .rxByte 38 0 [] .quiet).upos < 41 ∧
      (during 0x01A1 .address .checkAck 3 0 [] .quiet).upos = 3 := by decide

theorem DelayHalfWaitsForTheThreshold_witness_begin : (inStart 0 0 [] .quiet).dlyWait = 0#1 := by decide

theorem DelayHalfWaitsForTheThreshold_witness_wait :
    let s := { inStart 0 1 [] .quiet with tcnt := 4 }
    s.dlyWait = 1#1 ∧ s.tcnt < s.par.halfTicks := by decide

theorem DelayHalfWaitsForTheThreshold_witness_end :
    let s := { inStart 0 1 [] .quiet with tcnt := 5 }
    s.dlyWait = 1#1 ∧ s.par.halfTicks ≤ s.tcnt := by decide

theorem MicroOpsPerformTheirStepLists_witness_line :
    compound .start = true ∧ (inStart 3 0 [] .quiet).upos < opLength .start ∧ ShiftAt .start (inStart 3 0 [] .quiet) ∧
      delayAt .start (inStart 3 0 [] .quiet).upos = false := ⟨rfl, by decide, trivial, rfl⟩

theorem MicroOpsPerformTheirStepLists_witness_begin :
    compound .stop = true ∧ (inStop 2 0 [] .quiet).upos < opLength .stop ∧ ShiftAt .stop (inStop 2 0 [] .quiet) ∧
      delayAt .stop (inStop 2 0 [] .quiet).upos = true ∧ (inStop 2 0 [] .quiet).dlyWait = 0#1 :=
  ⟨rfl, by decide, trivial, rfl, rfl⟩

theorem MicroOpsPerformTheirStepLists_witness_wait :
    compound .start = true ∧ (waiting .quiet).upos < opLength .start ∧ ShiftAt .start (waiting .quiet) ∧
      delayAt .start (waiting .quiet).upos = true ∧ (waiting .quiet).dlyWait = 1#1 ∧
      (waiting .quiet).tcnt < (waiting .quiet).par.halfTicks := ⟨rfl, by decide, trivial, rfl, rfl, by decide⟩

/-- The last action of TX_BYTE of 0x81: `SR` is 0x80 and `BITCNT` 1. -/
theorem MicroOpsPerformTheirStepLists_witness_last :
    let s := { during 0x01A0 .address (.txByte 0x81) 39 1 [0x16] .quiet with sr := 0x80, bitcnt := 1, tcnt := 5 }
    compound (.txByte 0x81) = true ∧ s.upos < opLength (.txByte 0x81) ∧ ShiftAt (.txByte 0x81) s ∧
      delayAt (.txByte 0x81) s.upos = true ∧ s.dlyWait = 1#1 ∧ s.par.halfTicks ≤ s.tcnt ∧
      s.upos + 1 = opLength (.txByte 0x81) :=
  ⟨rfl, by decide, .inr (by decide), rfl, rfl, by decide, rfl⟩

/-- The first sample of RX_BYTE, and its last delay. -/
theorem MicroOpsPerformTheirStepLists_witness_rx :
    let s := { during 0x01A1 .data .rxByte 40 1 [0x16] .quiet with bitcnt := 1, tcnt := 5 }
    ShiftAt .rxByte inRx ∧ inRx.upos < opLength .rxByte ∧ ShiftAt .rxByte s ∧ s.upos + 1 = opLength .rxByte :=
  ⟨.inr rfl, by decide, .inr rfl, rfl⟩

theorem MicroOpsLeaveTheRestUnchanged_witness :
    compound .start = true ∧ ∃ t, exec .start (inStart 3 0 [] .quiet) = .next t :=
  ⟨rfl, _, next_of_isNext (by decide)⟩

/-- An environment that lets every delay end at its first poll. -/
theorem prompt_ticking : ∀ n, ∀ x ∈ List.replicate n ticking, Prompt Params.example x := by
  intro n x hx
  obtain ⟨_, rfl⟩ := List.mem_replicate.mp hx
  exact ⟨rfl, by decide, by decide⟩

/-- Micro-op `i` about to begin, with `n` steps of an advancing timer. -/
def beginning (w : Word) (ph : Phase) (i : Instr) (low : List Nat) (n : Nat) : State :=
  { during w ph i 0 0 low .quiet with env := List.replicate n ticking }

theorem beginning_atStart (w : Word) (ph : Phase) (i : Instr) (low : List Nat) (n : Nat)
    (hp : phaseCode ph = 1#3 ∨ phaseCode ph = 2#3 ∨ phaseCode ph = 3#3 ∨ phaseCode ph = 4#3) :
    AtStartOf i (beginning w ph i low n) (List.replicate n ticking) [] :=
  ⟨rfl, hp, (by decide : (0x16 : Nat) ≠ 0x17), during_uopWord w ph i 0 0 low .quiet, rfl, rfl, rfl,
    (List.append_nil _).symm, prompt_ticking n⟩

theorem StartRunsToItsEnd_witness :
    AtStartOf .start (beginning 0x01A0 .start .start [] 10) (List.replicate 10 ticking) [] ∧
      (List.replicate 10 ticking).length = 10 := ⟨beginning_atStart _ _ _ _ _ (by decide), rfl⟩

theorem StopRunsToItsEnd_witness :
    AtStartOf .stop (beginning 0x01A0 .stop .stop [0x16] 10) (List.replicate 10 ticking) [] ∧
      (List.replicate 10 ticking).length = 10 := ⟨beginning_atStart _ _ _ _ _ (by decide), rfl⟩

theorem TxByteRunsToItsEnd_witness :
    AtStartOf (.txByte 0xA0) (beginning 0x01A0 .address (.txByte 0xA0) [0x16, 0x17] 56) (List.replicate 56 ticking) [] ∧
      (List.replicate 56 ticking).length = 56 := ⟨beginning_atStart _ _ _ _ _ (by decide), rfl⟩

theorem RxByteRunsToItsEnd_witness :
    AtStartOf .rxByte (beginning 0x01A1 .data .rxByte [0x16] 57) (List.replicate 57 ticking) [] ∧
      (List.replicate 57 ticking).length = 57 ∧
      ([4, 11, 18, 25, 32, 39, 46, 53].map fun k => ((List.replicate 57 ticking).getD k Inputs.quiet).sdaLevel) =
        wireBits 0xFF := ⟨beginning_atStart _ _ _ _ _ (by decide), rfl, by decide⟩

theorem CheckAckRunsToItsEnd_witness :
    AtStartOf .checkAck (beginning 0x01A0 .address .checkAck [0x16, 0x17] 8) (List.replicate 8 ticking) [] ∧
      (List.replicate 8 ticking).length = 8 := ⟨beginning_atStart _ _ _ _ _ (by decide), rfl⟩

theorem SendAckRunsToItsEnd_witness :
    AtStartOf .sendAck (beginning 0x01A1 .data .sendAck [0x16] 8) (List.replicate 8 ticking) [] ∧
      (List.replicate 8 ticking).length = 8 := ⟨beginning_atStart _ _ _ _ _ (by decide), rfl⟩

theorem SendNackRunsToItsEnd_witness :
    AtStartOf .sendNack (beginning 0x01A1 .data .sendNack [0x16] 7) (List.replicate 7 ticking) [] ∧
      (List.replicate 7 ticking).length = 7 := ⟨beginning_atStart _ _ _ _ _ (by decide), rfl⟩

/-! ### Steps -/

theorem StepRunsTheOfferedCommand_witness :
    let s := idle (offering 0x01A0 1 0x2000 0x16 0x17)
    s.now.rst = false ∧ s.phase = 0#3 ∧ s.busy = 0#1 ∧ s.now.cmdValid = true ∧
      decodeCmd s.now.cmdWord = .ok (.write 0x50) := by decide

theorem StepRunsTheMicroOp_witness :
    let s := inStart 0 0 [] .quiet
    s.now.rst = false ∧ s.phase = 1#3 ∧ s.due = .uop ∧ decodeUop s.uopWord = .ok .start := by decide

theorem IdleStepDoesNothing_witness_no_offer :
    (idle .quiet).now.rst = false ∧ (idle .quiet).phase = 0#3 ∧ (idle .quiet).now.cmdValid = false := by decide

theorem IdleStepDoesNothing_witness_busy :
    let s := { idle .quiet with status := 1 }
    s.now.rst = false ∧ s.phase = 0#3 ∧ s.busy = 1#1 := by decide

theorem ResetWinsAndTouchesNothingOutside_witness :
    (waiting { Inputs.quiet with rst := true }).now.rst = true := by decide

theorem PhaseFollowsTheTable_witness :
    Sound (waiting .quiet) ∧ (waiting .quiet).now.rst = false ∧ ∃ t, step (waiting .quiet) = .next t :=
  ⟨waiting_sound _, rfl, _, next_of_isNext (by decide)⟩

theorem PhaseFollowsTheTable_witness_idle :
    let s := idle (offering 0x01A0 1 0x2000 0x16 0x17)
    Sound s ∧ s.now.rst = false ∧ ∃ t, step s = .next t :=
  ⟨idle_sound _, rfl, _, next_of_isNext (by decide)⟩

theorem NackAbortsToStop_witness :
    let s := { during 0x01A0 .address .checkAck 0 0 [0x16] .quiet with due := .ended, ackbit := 1 }
    s.now.rst = false ∧ s.phase = 2#3 ∧ s.due = .ended ∧ s.uopWord = encode .checkAck ∧ s.ackbit = 1#1 := by decide

theorem NackAbortsToStop_witness_payload :
    let s := { during 0x01A0 .data .checkAck 0 0 [0x16] .quiet with due := .ended, ackbit := 1 }
    s.now.rst = false ∧ s.phase = 3#3 ∧ s.due = .ended ∧ s.uopWord = encode .checkAck ∧ s.ackbit = 1#1 := by decide

theorem WriteReadsThePayloadByte_witness :
    let s := { during 0x01A0 .data .checkAck 0 0 [0x16] .quiet with due := .memRead }
    s.now.rst = false ∧ s.phase = 3#3 ∧ s.due = .memRead ∧ s.buf + s.idx < 2 ^ s.par.addrWidth := by decide

theorem ReadWritesTheReceivedByte_witness :
    atWrite.now.rst = false ∧ atWrite.phase = 3#3 ∧ atWrite.due = .memWrite ∧
      atWrite.buf + atWrite.idx < 2 ^ atWrite.par.addrWidth ∧ Memory.wf atWrite.mem = true := by decide

theorem CompleteReportsTheResult_witness_stop :
    let s := { inStop 0 0 [] .quiet with due := .ended }
    s.now.rst = false ∧ s.phase = 4#3 ∧ s.due = .ended ∧ s.uopWord = encode .stop :=
  ⟨rfl, rfl, rfl, during_uopWord 0x01A0 .stop .stop 0 0 [] .quiet⟩

theorem CompleteReportsTheResult_witness :
    let s := atComplete 0x01A0 2 .success 0 []
    s.now.rst = false ∧ s.phase = 4#3 ∧ s.due = .complete := by decide

theorem StatusKeepsItsLegalValues_witness :
    (waiting .quiet).status = 0x01#8 ∧ ∃ t, step (waiting .quiet) = .next t :=
  ⟨rfl, _, next_of_isNext (by decide)⟩

theorem CommandRegistersAreReadOnlyAfterAccept_witness :
    (waiting .quiet).now.rst = false ∧ (waiting .quiet).phase ≠ 0#3 ∧ ∃ t, step (waiting .quiet) = .next t :=
  ⟨rfl, by decide, _, next_of_isNext (by decide)⟩

theorem LaterOffersHaveNoEffect_witness :
    let y := offering 0x01A1 9 3 1 2
    (waiting .quiet).phase ≠ 0#3 ∧
      y = { Inputs.quiet with cmdValid := y.cmdValid, cmdWord := y.cmdWord, cmdLen := y.cmdLen, cmdBuf := y.cmdBuf,
                              cmdScl := y.cmdScl, cmdSda := y.cmdSda } := by decide

theorem OnlyAReadWritesBufferMemory_witness_write :
    Sound atWrite ∧ atWrite.now.hostWrites = [] ∧ ∃ t, step atWrite = .next t :=
  ⟨atWrite_sound, rfl, _, next_of_isNext (by decide)⟩

theorem OnlyAReadWritesBufferMemory_witness_other :
    Sound (waiting .quiet) ∧ (waiting .quiet).now.hostWrites = [] ∧ ∃ t, step (waiting .quiet) = .next t :=
  ⟨waiting_sound _, rfl, _, next_of_isNext (by decide)⟩

/-- Other agents try to write the first and last buffer byte and to drive both pins. -/
def meddling : Inputs :=
  { Inputs.quiet with hostWrites := [(0x2000, 1), (0x2001, 2)], pinActs := [(0x16, .low), (0x17, .low)] }

theorem BufferAndPinsAreExclusive_witness_memory :
    let s := waiting meddling
    Sound s ∧ s.now.rst = false ∧ s.phase ≠ 0#3 ∧ s.due ≠ .complete ∧ s.due ≠ .memWrite ∧ s.buf ≤ 0x2001 ∧
      0x2001 < s.buf + s.len ∧ ∃ t, step s = .next t :=
  ⟨waiting_sound _, rfl, by decide, by decide, by decide, by decide, by decide, _, next_of_isNext (by decide)⟩

/-- The payload write at `BUF`, with the other buffer byte at `BUF + 1`. -/
theorem BufferAndPinsAreExclusive_witness_write :
    Sound atWrite ∧ atWrite.now.rst = false ∧ atWrite.phase ≠ 0#3 ∧ atWrite.due ≠ .complete ∧ atWrite.due = .memWrite ∧
      atWrite.buf ≤ 0x2001 ∧ 0x2001 < atWrite.buf + atWrite.len ∧ 0x2001 ≠ atWrite.buf + atWrite.idx ∧
      atWrite.due ≠ .uop ∧ ∃ t, step atWrite = .next t :=
  ⟨atWrite_sound, rfl, by decide, by decide, rfl, by decide, by decide, by decide, by decide, _,
    next_of_isNext (by decide)⟩

/-- A delay of START while other agents act on both pins. -/
theorem BufferAndPinsAreExclusive_witness_delay :
    let s := waiting meddling
    Sound s ∧ s.now.rst = false ∧ s.phase ≠ 0#3 ∧ s.due ≠ .complete ∧ s.uopWord = encode .start ∧
      delayAt .start s.upos = true ∧ ∃ t, step s = .next t :=
  ⟨waiting_sound _, rfl, by decide, by decide, during_uopWord 0x01A0 .start .start 2 1 [] meddling, rfl, _,
    next_of_isNext (by decide)⟩

theorem BufferAndPinsAreExclusive_witness_sample :
    Sound inRx ∧ inRx.now.rst = false ∧ inRx.phase ≠ 0#3 ∧ inRx.due ≠ .complete ∧ inRx.uopWord = encode .rxByte ∧
      sampleAt .rxByte inRx.upos = true ∧ ∃ t, step inRx = .next t :=
  ⟨inRx_sound, rfl, by decide, by decide, during_uopWord 0x01A1 .data .rxByte 3 0 [] .quiet, rfl, _,
    next_of_isNext (by decide)⟩

theorem BufferAndPinsAreExclusive_witness_accept :
    let s := idle (offering 0x01A0 1 0x2000 0x16 0x17)
    Sound s ∧ s.now.rst = false ∧ s.phase = 0#3 ∧ ∃ t, step s = .next t ∧ t.phase ≠ 0#3 ∧ t.buf ≤ 0x2000 ∧
      0x2000 < t.buf + t.len :=
  ⟨idle_sound _, rfl, rfl, _, next_of_isNext (by decide), by decide, by decide, by decide⟩

theorem OneEventAStepOnTheCommandsPins_witness : ∃ t, step inRx = .next t := ⟨_, next_of_isNext (by decide)⟩

theorem SdaIsReadOnlyWhileReleased_witness :
    Sound inRx ∧ inRx.phase ≠ 0#3 ∧
      ∃ t, step inRx = .next t ∧ t.trace = inRx.trace ++ [.sample inRx.sdaRef 1#1] :=
  ⟨inRx_sound, by decide, _, next_of_isNext (by decide), by decide⟩

/-- The `L(d)` of START. -/
theorem NoOtherStartOrStopCondition_witness_start :
    let s := inStart 3 0 [] .quiet
    Sound s ∧ s.now.rst = false ∧ s.phase ≠ 0#3 ∧ s.due ≠ .complete ∧ s.drv s.sclRef = .rel ∧
      ∃ t, step s = .next t ∧ t.drv s.sdaRef ≠ s.drv s.sdaRef :=
  ⟨inStart_sound (by decide) (by decide) (by decide)
    ⟨fun y h => (by decide : ∀ y, some Drive.rel = some y → Drive.rel = y) y h,
      fun y h => (by decide : ∀ y, some Drive.rel = some y → Drive.rel = y) y h⟩,
    rfl, by decide, by decide, by decide, _, next_of_isNext (by decide), by decide⟩

/-- The last `H(d)` of STOP. -/
theorem NoOtherStartOrStopCondition_witness_stop :
    let s := inStop 5 0 [0x17] .quiet
    Sound s ∧ s.now.rst = false ∧ s.phase ≠ 0#3 ∧ s.due ≠ .complete ∧ s.drv s.sclRef = .rel ∧
      ∃ t, step s = .next t ∧ t.drv s.sdaRef ≠ s.drv s.sdaRef :=
  ⟨inStop_sound (by decide) (by decide) (by decide)
    ⟨fun y h => (by decide : ∀ y, some Drive.rel = some y → Drive.rel = y) y h,
      fun y h => (by decide : ∀ y, some Drive.low = some y → Drive.low = y) y h⟩,
    rfl, by decide, by decide, by decide, _, next_of_isNext (by decide), by decide⟩

/-- The first `H(d)` of a START that finds SCL released and SDA driven low (95_test_vectors 2.5). -/
theorem NoOtherStartOrStopCondition_witness_after_reset :
    let s := inStart 0 0 [0x17] .quiet
    Sound s ∧ s.now.rst = false ∧ s.phase ≠ 0#3 ∧ s.due ≠ .complete ∧ s.drv s.sclRef = .rel ∧
      ∃ t, step s = .next t ∧ t.drv s.sdaRef ≠ s.drv s.sdaRef :=
  ⟨inStart_sound (by decide) (by decide) (by decide)
    ⟨fun y h => absurd (show (none : Option Drive) = some y from h) (by simp),
      fun y h => absurd (show (none : Option Drive) = some y from h) (by simp)⟩,
    rfl, by decide, by decide, by decide, _, next_of_isNext (by decide), by decide⟩

/-! ### Invariants -/

theorem WidthsAndCanonicalFormsAreKept_witness : FitsWidths inRx ∧ ∃ t, step inRx = .next t :=
  ⟨inRx_sound.1, _, next_of_isNext (by decide)⟩

theorem SequencerStaysConsistent_witness : FitsWidths inRx ∧ ControlSound inRx ∧ ∃ t, step inRx = .next t :=
  ⟨inRx_sound.1, inRx_sound.2.1, _, next_of_isNext (by decide)⟩

theorem DriveStatesFollowTheStepLists_witness : Sound atWrite ∧ ∃ t, step atWrite = .next t :=
  ⟨atWrite_sound, _, next_of_isNext (by decide)⟩

/-- START at its third action, with the trace it has then. -/
theorem TraceFollowsTheTransaction_witness :
    let s := { waiting .quiet with trace := [.high 0x17, .high 0x16, .delay] }
    Sound s ∧ TraceSound s ∧ ∃ t, step s = .next t :=
  ⟨waiting_sound .quiet, by unfold TraceSound; decide, _, next_of_isNext (by decide)⟩

theorem NoStepFaults_witness : Sound inRx := inRx_sound

/-- Between commands, with other values in every register the spec gives no reset value. -/
theorem UnspecifiedResetValuesAreNeverRead_witness_idle :
    let s := idle .quiet
    let t := { s with cmd := 0xFFFF, len := 9, buf := 7, sclRef := 3, sdaRef := 4, idx := 5, uop := 0xF, uopArg := 1,
                      upos := 99, sr := 0xFF, bitcnt := 3, ackbit := 1 }
    Sound s ∧ SameReadable s t ∧ s ≠ t ∧ ∃ s', step s = .next s' :=
  ⟨idle_sound _, ⟨⟨rfl, rfl, rfl, rfl, rfl, rfl, rfl, rfl, rfl, rfl⟩, ⟨rfl, rfl, rfl, fun _ => rfl, fun _ => rfl,
    fun _ => rfl⟩, fun h => absurd rfl h⟩, by decide, _, next_of_isNext (by decide)⟩

/-- At the first sample of RX_BYTE, with another old value in `SR` and `ACKBIT`. -/
theorem UnspecifiedResetValuesAreNeverRead_witness_run :
    let t := { inRx with sr := 0xFF, ackbit := 1 }
    Sound inRx ∧ SameReadable inRx t ∧ inRx ≠ t ∧ ∃ s', step inRx = .next s' := by
  have hu : inRx.uopWord = encode .rxByte := during_uopWord 0x01A1 .data .rxByte 3 0 [] .quiet
  refine ⟨inRx_sound, ⟨⟨rfl, rfl, rfl, rfl, rfl, rfl, rfl, rfl, rfl, rfl⟩, ⟨rfl, rfl, rfl, fun _ => rfl, fun _ => rfl,
    fun _ => rfl⟩, fun _ => ⟨⟨rfl, rfl, rfl, rfl, rfl, rfl, rfl, rfl, rfl⟩, fun _ => rfl, fun _ => rfl,
      fun h => ?_, fun b h => ?_, fun _ _ _ => ⟨rfl, by decide⟩, fun h => ?_⟩⟩, by decide, _,
    next_of_isNext (by decide)⟩
  · exact absurd (hu.symm.trans h) (by decide)
  · exact absurd (only_rx (by decide) (hu.symm.trans h)) (by simp)
  · exact absurd h (by simp [inRx, during])

theorem ParametersAreConstant_witness : ∃ t, step inRx = .next t := ⟨_, next_of_isNext (by decide)⟩

/-! ### Whole commands -/

theorem EveryStepButAWaitMakesProgress_witness_wait :
    let s := waiting .quiet
    Sound s ∧ s.phase ≠ 0#3 ∧ s.now.rst = false ∧ Waiting s ∧ ∃ t, step s = .next t :=
  ⟨waiting_sound _, by decide, rfl, ⟨rfl, rfl, by decide⟩, _, next_of_isNext (by decide)⟩

theorem EveryStepButAWaitMakesProgress_witness_other :
    Sound inRx ∧ inRx.phase ≠ 0#3 ∧ inRx.now.rst = false ∧ ¬ Waiting inRx ∧ ∃ t, step inRx = .next t :=
  ⟨inRx_sound, by decide, rfl, by unfold Waiting; decide, _, next_of_isNext (by decide)⟩

theorem CommandEndsWhileTheTimerAdvances_witness :
    let s := { atComplete 0x01A0 2 .success 0 [] with env := List.replicate 1 ticking }
    Sound s ∧ s.phase ≠ 0#3 ∧ s.dlyWait = 0#1 ∧ s.env = List.replicate 1 ticking ++ [] ∧
      (∀ x ∈ List.replicate 1 ticking, Prompt s.par x) ∧ stepsLeft s ≤ (List.replicate 1 ticking).length :=
  ⟨atComplete_sound 0x01A0 2 .success 0 [] (by decide) (by decide) (by decide), by decide, rfl, rfl,
    prompt_ticking 1, by decide⟩

/-- The bus phase of a command to device 0x50 with its address acknowledged or not. -/
def head (addr : Byte) (a : Bit) : List Event := addressTrace 0x16 0x17 addr a

theorem CompletedCommandHasTheSpecsTrace_witness_write :
    let s := atComplete 0x01A0 2 .success 0
      (head 0xA0 0 ++ writePayloadTrace 0x16 0x17 0x2000 [0, 0] ++ stopTrace 0x16 0x17)
    Sound s ∧ TraceSound s ∧ s.now.rst = false ∧ s.phase = 4#3 ∧ s.due = .complete ∧ s.result = .success ∧ s.rw = 0#1 :=
  ⟨atComplete_sound _ _ _ _ _ (by decide) (by decide) (by decide), by unfold TraceSound; decide, rfl, rfl, rfl, rfl,
    by decide⟩

theorem CompletedCommandHasTheSpecsTrace_witness_read :
    let s := atComplete 0x01A1 2 .success 0
      (head 0xA1 0 ++ readPayloadTrace 0x16 0x17 0x2000 [0, 0] ++ stopTrace 0x16 0x17)
    Sound s ∧ TraceSound s ∧ s.now.rst = false ∧ s.phase = 4#3 ∧ s.due = .complete ∧ s.result = .success ∧ s.rw = 1#1 :=
  ⟨atComplete_sound _ _ _ _ _ (by decide) (by decide) (by decide), by unfold TraceSound; decide, rfl, rfl, rfl, rfl,
    by decide⟩

theorem CompletedCommandHasTheSpecsTrace_witness_address_fails :
    let s := atComplete 0x01A1 2 .ackFailure 1 (head 0xA1 1 ++ stopTrace 0x16 0x17)
    Sound s ∧ TraceSound s ∧ s.now.rst = false ∧ s.phase = 4#3 ∧ s.due = .complete ∧ s.result = .ackFailure :=
  ⟨atComplete_sound _ _ _ _ _ (by decide) (by decide) (by decide), by unfold TraceSound; decide, rfl, rfl, rfl, rfl⟩

theorem CompletedCommandHasTheSpecsTrace_witness_payload_fails :
    let s := atComplete 0x01A0 2 .ackFailure 1
      (head 0xA0 0 ++ writeByteTrace 0x16 0x17 0x2000 0 1 ++ stopTrace 0x16 0x17)
    Sound s ∧ TraceSound s ∧ s.now.rst = false ∧ s.phase = 4#3 ∧ s.due = .complete ∧ s.result = .ackFailure :=
  ⟨atComplete_sound _ _ _ _ _ (by decide) (by decide) (by decide), by unfold TraceSound; decide, rfl, rfl, rfl, rfl⟩

theorem StalledTimerHoldsTheDelay_witness :
    let s := { waiting .quiet with env := List.replicate 3 Inputs.quiet }
    Sound s ∧ s.phase ≠ 0#3 ∧ Waiting s ∧ s.env = List.replicate 3 Inputs.quiet ++ [] ∧
      ∀ x ∈ List.replicate 3 Inputs.quiet, Stalled x :=
  ⟨waiting_sound .quiet, by decide, ⟨rfl, rfl, by decide⟩, rfl, by unfold Stalled; decide⟩

theorem DelayEndsOnlyAtTheThreshold_witness_wait :
    let s := waiting meddling
    Sound s ∧ s.now.rst = false ∧ s.phase ≠ 0#3 ∧ s.dlyWait = 1#1 ∧ s.tcnt < s.par.halfTicks ∧ ∃ t, step s = .next t :=
  ⟨waiting_sound _, rfl, by decide, rfl, by decide, _, next_of_isNext (by decide)⟩

/-- At the threshold itself. -/
theorem DelayEndsOnlyAtTheThreshold_witness_end :
    let s := { waiting .quiet with tcnt := 5 }
    Sound s ∧ s.now.rst = false ∧ s.phase ≠ 0#3 ∧ s.dlyWait = 1#1 ∧ s.par.halfTicks ≤ s.tcnt ∧
      ∃ t, step s = .next t := by
  have h := waiting_sound .quiet
  exact ⟨⟨⟨h.1.1, h.1.2.1, h.1.2.2.1, h.1.2.2.2.1, h.1.2.2.2.2.1, h.1.2.2.2.2.2.1, (by decide : 5 < 2 ^ 16),
    h.1.2.2.2.2.2.2.2⟩, h.2⟩, rfl, by decide, rfl, by decide, _, next_of_isNext (by decide)⟩

theorem DelaysAreCountedAsTheSpecSays_witness_operation :
    compound .sendNack = true ∧
      AtStartOf .sendNack (beginning 0x01A1 .data .sendNack [0x16] 7) (List.replicate 7 ticking) [] ∧
      (List.replicate 7 ticking).length = tableActions .sendNack + 2 * tableDelays .sendNack :=
  ⟨rfl, beginning_atStart _ _ _ _ _ (by decide), rfl⟩

/-- What an earlier command has left in the trace. -/
def earlier : List Event := [.low 0x16, .done .success]

/-- A READ of no byte, all acknowledged. -/
theorem DelaysAreCountedAsTheSpecSays_witness_success :
    let s := atComplete 0x01A1 0 .success 0 (earlier ++ (head 0xA1 0 ++ stopTrace 0x16 0x17))
    Sound s ∧ TraceSince earlier s ∧ s.now.rst = false ∧ s.phase = 4#3 ∧ s.due = .complete ∧ s.result = .success :=
  ⟨atComplete_sound _ _ _ _ _ (by decide) (by decide) (by decide), by unfold TraceSince; decide, rfl, rfl, rfl, rfl⟩

theorem DelaysAreCountedAsTheSpecSays_witness_failure :
    let s := atComplete 0x01A0 2 .ackFailure 1
      (earlier ++ (head 0xA0 0 ++ writeByteTrace 0x16 0x17 0x2000 0 1 ++ stopTrace 0x16 0x17))
    Sound s ∧ TraceSince earlier s ∧ s.now.rst = false ∧ s.phase = 4#3 ∧ s.due = .complete ∧ s.result = .ackFailure :=
  ⟨atComplete_sound _ _ _ _ _ (by decide) (by decide) (by decide), by unfold TraceSince; decide, rfl, rfl, rfl, rfl⟩

theorem CommandEmitsExactlyItsTrace_witness_accept :
    let s := idle (offering 0x01A0 1 0x2000 0x16 0x17)
    Sound s ∧ TraceSince [] s ∧ s.now.rst = false ∧ s.phase = 0#3 ∧ ∃ t, step s = .next t ∧ t.phase ≠ 0#3 :=
  ⟨idle_sound _, by unfold TraceSince; decide, rfl, rfl, _, next_of_isNext (by decide), by decide⟩

theorem CommandEmitsExactlyItsTrace_witness_step :
    let s := { waiting .quiet with trace := earlier ++ [.high 0x17, .high 0x16, .delay] }
    Sound s ∧ TraceSince earlier s ∧ s.now.rst = false ∧ ∃ t, step s = .next t ∧ t.phase ≠ 0#3 :=
  ⟨waiting_sound .quiet, by unfold TraceSince; decide, rfl, _, next_of_isNext (by decide), by decide⟩

theorem CommandEmitsExactlyItsTrace_witness_write :
    let s := atComplete 0x01A0 1 .success 0
      (earlier ++ (head 0xA0 0 ++ writePayloadTrace 0x16 0x17 0x2000 [0] ++ stopTrace 0x16 0x17))
    Sound s ∧ TraceSince earlier s ∧ s.now.rst = false ∧ s.phase = 4#3 ∧ s.due = .complete ∧ s.result = .success ∧
      s.rw = 0#1 :=
  ⟨atComplete_sound _ _ _ _ _ (by decide) (by decide) (by decide), by unfold TraceSince; decide, rfl, rfl, rfl, rfl,
    by decide⟩

theorem CommandEmitsExactlyItsTrace_witness_read :
    let s := atComplete 0x01A1 1 .success 0
      (earlier ++ (head 0xA1 0 ++ readPayloadTrace 0x16 0x17 0x2000 [0] ++ stopTrace 0x16 0x17))
    Sound s ∧ TraceSince earlier s ∧ s.now.rst = false ∧ s.phase = 4#3 ∧ s.due = .complete ∧ s.result = .success ∧
      s.rw = 1#1 :=
  ⟨atComplete_sound _ _ _ _ _ (by decide) (by decide) (by decide), by unfold TraceSince; decide, rfl, rfl, rfl, rfl,
    by decide⟩

theorem CommandEmitsExactlyItsTrace_witness_address_fails :
    let s := atComplete 0x01A1 2 .ackFailure 1 (earlier ++ (head 0xA1 1 ++ stopTrace 0x16 0x17))
    Sound s ∧ TraceSince earlier s ∧ s.now.rst = false ∧ s.phase = 4#3 ∧ s.due = .complete ∧ s.result = .ackFailure :=
  ⟨atComplete_sound _ _ _ _ _ (by decide) (by decide) (by decide), by unfold TraceSince; decide, rfl, rfl, rfl, rfl⟩

end Sys2Proof.Tests
end

section
/-! What one action of an operation, and one choice of the sequencer, can do to the state: said once for all operations,
for the proofs about every step. -/

namespace Sys2Proof.Machine

theorem bit_cases (b : Bit) : b = 0#1 ∨ b = 1#1 := by revert b; decide

/-! ### The action of an operation -/

/-- The six things an action or a poll of the core does on its ports (00_scope R8, 40_delay_and_lines R90 to R94). -/
inductive PortAction (s : State) : State → Prop where
  | high (l : Line) : PortAction s (setLineHigh l s)
  | low (l : Line) : PortAction s (setLineLow l s)
  | read : PortAction s (readSda s)
  | beginDelay : PortAction s (beginDelay s)
  | endDelay : PortAction s (endDelay s)
  | none : PortAction s s.noAction

/-- `r` is `a` but for the position in the micro-op and the registers of the sub-blocks (10_state R29 to R31). -/
def SameButPosition (a r : State) : Prop :=
  r = { a with upos := r.upos, due := r.due, sr := r.sr, bitcnt := r.bitcnt, ackbit := r.ackbit }

/-- `r` is `s` after one port action, up to the position and the registers of the sub-blocks. -/
def Acted (s r : State) : Prop := ∃ a, PortAction s a ∧ SameButPosition a r

theorem endBit_sameButPosition (s : State) : SameButPosition s (endBit s) := by
  rcases endBit_cases s with ⟨-, h⟩ | ⟨-, h⟩ <;> rw [h] <;> rfl

theorem endTxBit_sameButPosition (s : State) : SameButPosition s (endTxBit s) := by
  unfold endTxBit
  rcases endBit_cases (shiftIn 0#1 s) with ⟨-, h⟩ | ⟨-, h⟩ <;> rw [h] <;> rfl

/-- A step of a delay is one port action, whatever follows the delay. -/
theorem delayStep_acted {fin : State → State} (hfin : ∀ x, SameButPosition x (fin x)) (s : State) :
    Acted s (delayStep fin s) := by
  rcases delayStep_cases fin s with ⟨-, h⟩ | ⟨-, -, h⟩ | ⟨-, -, h⟩ <;> rw [h]
  · exact ⟨_, .beginDelay, rfl⟩
  · exact ⟨_, .endDelay, hfin _⟩
  · exact ⟨_, .none, rfl⟩

theorem delayStep_nextPos_acted (s : State) : Acted s (delayStep State.nextPos s) :=
  delayStep_acted (fin := State.nextPos) (fun _ => rfl) s

theorem delayStep_endUop_acted (s : State) : Acted s (delayStep State.endUop s) :=
  delayStep_acted (fin := State.endUop) (fun _ => rfl) s

/-- A transmitted bit is one line action on SDA (42_byte_shift R120). -/
theorem driveBit_cases (s : State) :
    (s.sr.extractLsb' 7 1 = 1#1 ∧ driveBit s = setLineHigh .sda s) ∨
      (s.sr.extractLsb' 7 1 ≠ 1#1 ∧ driveBit s = setLineLow .sda s) := by
  unfold driveBit
  by_cases h : s.sr.extractLsb' 7 1 = 1#1
  · exact .inl ⟨h, if_pos h⟩
  · exact .inr ⟨h, if_neg h⟩

theorem driveBit_nextPos_acted (s : State) : Acted s (driveBit s).nextPos := by
  rcases driveBit_cases s with ⟨-, h⟩ | ⟨-, h⟩ <;> rw [h]
  · exact ⟨_, .high .sda, rfl⟩
  · exact ⟨_, .low .sda, rfl⟩

theorem driveBit_loadTx_nextPos_acted (b : Byte) (s : State) : Acted s (driveBit (loadTx b s)).nextPos := by
  rcases driveBit_cases (loadTx b s) with ⟨-, h⟩ | ⟨-, h⟩ <;> rw [h]
  · exact ⟨_, .high .sda, rfl⟩
  · exact ⟨_, .low .sda, rfl⟩

theorem execStart_acted {s r : State} (h : execStart s = .next r) : Acted s r := by
  unfold execStart at h
  split at h <;> cases h
  exacts [⟨_, .high .sda, rfl⟩, ⟨_, .high .scl, rfl⟩, delayStep_nextPos_acted s, ⟨_, .low .sda, rfl⟩,
    delayStep_nextPos_acted s, ⟨_, .low .scl, rfl⟩, delayStep_endUop_acted s]

theorem execStop_acted {s r : State} (h : execStop s = .next r) : Acted s r := by
  unfold execStop at h
  split at h <;> cases h
  exacts [⟨_, .low .scl, rfl⟩, ⟨_, .low .sda, rfl⟩, delayStep_nextPos_acted s, ⟨_, .high .scl, rfl⟩,
    delayStep_nextPos_acted s, ⟨_, .high .sda, rfl⟩, delayStep_endUop_acted s]

theorem execTxByte_acted {b : Byte} {s r : State} (h : execTxByte b s = .next r) : Acted s r := by
  unfold execTxByte at h
  split at h
  · cases h
  split at h
  · cases h
    exact driveBit_loadTx_nextPos_acted b s
  split at h <;> cases h
  exacts [driveBit_nextPos_acted s, ⟨_, .high .scl, rfl⟩, delayStep_nextPos_acted s, ⟨_, .low .scl, rfl⟩,
    delayStep_acted endTxBit_sameButPosition s]

theorem execRxByte_acted {s r : State} (h : execRxByte s = .next r) : Acted s r := by
  unfold execRxByte at h
  split at h
  · cases h
  split at h
  · cases h
    exact ⟨_, .high .sda, rfl⟩
  split at h <;> cases h
  exacts [⟨_, .high .scl, rfl⟩, delayStep_nextPos_acted s, ⟨_, .read, rfl⟩, ⟨_, .low .scl, rfl⟩,
    delayStep_acted endBit_sameButPosition s]

theorem execCheckAck_acted {s r : State} (h : execCheckAck s = .next r) : Acted s r := by
  unfold execCheckAck at h
  split at h <;> cases h
  exacts [⟨_, .high .sda, rfl⟩, ⟨_, .high .scl, rfl⟩, delayStep_nextPos_acted s, ⟨_, .read, rfl⟩,
    ⟨_, .low .scl, rfl⟩, delayStep_endUop_acted s]

theorem execSendAck_acted {s r : State} (h : execSendAck s = .next r) : Acted s r := by
  unfold execSendAck at h
  split at h <;> cases h
  exacts [⟨_, .low .sda, rfl⟩, ⟨_, .high .scl, rfl⟩, delayStep_nextPos_acted s, ⟨_, .low .scl, rfl⟩,
    ⟨_, .high .sda, rfl⟩, delayStep_endUop_acted s]

theorem execSendNack_acted {s r : State} (h : execSendNack s = .next r) : Acted s r := by
  unfold execSendNack at h
  split at h <;> cases h
  exacts [⟨_, .high .sda, rfl⟩, ⟨_, .high .scl, rfl⟩, delayStep_nextPos_acted s, ⟨_, .low .scl, rfl⟩,
    delayStep_endUop_acted s]

/-- An offered command that answers a next state was held or accepted (44_transactions R160). -/
theorem acceptCommand_next {w : Word} {s r : State} (h : acceptCommand w s = .next r) :
    r = s.noAction ∨ (s.cmdReady = true ∧ (offerNow w s).wf s.par = true ∧ r = latchCommand (offerNow w s) s) := by
  rcases acceptCommand_cases w s with ⟨-, ha⟩ | ⟨-, -, ha⟩ | ⟨hr, hw, ha⟩ <;> rw [ha] at h <;> cases h
  · exact .inl rfl
  · exact .inr ⟨hr, hw, rfl⟩

/-- An operation that answers a next state did one port action or, if it is a command, was accepted. -/
theorem exec_next {i : Instr} {s r : State} (h : exec i s = .next r) :
    Acted s r ∨ (Safety.compound i = false ∧ (offerNow (encode i) s).wf s.par = true ∧
      r = latchCommand (offerNow (encode i) s) s) := by
  cases i with
  | write a =>
    rcases acceptCommand_next h with rfl | ⟨-, hw, rfl⟩
    · exact .inl ⟨_, .none, rfl⟩
    · exact .inr ⟨rfl, hw, rfl⟩
  | read a =>
    rcases acceptCommand_next h with rfl | ⟨-, hw, rfl⟩
    · exact .inl ⟨_, .none, rfl⟩
    · exact .inr ⟨rfl, hw, rfl⟩
  | delayHalf => cases h; exact .inl (delayStep_endUop_acted s)
  | lineHigh l => cases h; exact .inl ⟨_, .high l, rfl⟩
  | lineLow l => cases h; exact .inl ⟨_, .low l, rfl⟩
  | lineRead => cases h; exact .inl ⟨_, .read, rfl⟩
  | start => exact .inl (execStart_acted h)
  | stop => exact .inl (execStop_acted h)
  | txByte b => exact .inl (execTxByte_acted h)
  | rxByte => exact .inl (execRxByte_acted h)
  | checkAck => exact .inl (execCheckAck_acted h)
  | sendAck => exact .inl (execSendAck_acted h)
  | sendNack => exact .inl (execSendNack_acted h)

/-- A compound micro-op does one port action. -/
theorem exec_acted {i : Instr} {s r : State} (hi : Safety.compound i = true) (h : exec i s = .next r) : Acted s r :=
  (exec_next h).resolve_right fun hc => by simp [hc.1] at hi

/-! ### The choice of the sequencer -/

/-- The sequencer's choices, by the phase and the micro-op that has ended (44_transactions R161 to R163). -/
inductive Choice (s : State) : State → Prop where
  | address (hp : phaseOf s.phase = some .start) (hu : decodeUop s.uopWord = .ok .start) :
      Choice s (enterAddress s.noAction)
  | checkAddress {b : Byte} (hp : phaseOf s.phase = some .address) (hu : decodeUop s.uopWord = .ok (.txByte b)) :
      Choice s (s.noAction.issue .checkAck)
  | addressChecked (hp : phaseOf s.phase = some .address) (hu : decodeUop s.uopWord = .ok .checkAck) :
      Choice s (afterCheck 0 s.noAction)
  | checkByte {b : Byte} (hp : phaseOf s.phase = some .data) (hu : decodeUop s.uopWord = .ok (.txByte b)) :
      Choice s (s.noAction.issue .checkAck)
  | byteChecked (hp : phaseOf s.phase = some .data) (hu : decodeUop s.uopWord = .ok .checkAck) :
      Choice s (afterCheck (nextIdx s) s.noAction)
  | received (hp : phaseOf s.phase = some .data) (hu : decodeUop s.uopWord = .ok .rxByte) :
      Choice s { s.noAction with due := .memWrite }
  | acknowledged (hp : phaseOf s.phase = some .data)
      (hu : decodeUop s.uopWord = .ok .sendAck ∨ decodeUop s.uopWord = .ok .sendNack) :
      Choice s (payloadLoop (nextIdx s) s.noAction)
  | stopped (hp : phaseOf s.phase = some .stop) (hu : decodeUop s.uopWord = .ok .stop) :
      Choice s { s.noAction with due := .complete }

theorem sequence_next {s r : State} (h : sequence s = .next r) : Choice s r := by
  unfold sequence at h
  split at h <;> cases h
  · exact .address ‹_› ‹_›
  · exact .checkAddress ‹_› ‹_›
  · exact .addressChecked ‹_› ‹_›
  · exact .checkByte ‹_› ‹_›
  · exact .byteChecked ‹_› ‹_›
  · exact .received ‹_› ‹_›
  · exact .acknowledged ‹_› (.inl ‹_›)
  · exact .acknowledged ‹_› (.inr ‹_›)
  · exact .stopped ‹_› ‹_›

/-! ### The buffer accesses -/

/-- What a payload read that answers a next state did (44_transactions R161). -/
theorem readPayload_next {s r : State} (h : readPayload s = .next r) :
    s.byteAddr < 2 ^ s.par.addrWidth ∧
      r = { s.issue (.txByte (readByte s.mem s.byteAddr)) with
            out := s.out.fetchByte s.byteAddr
            trace := s.trace ++ [.memRead s.byteAddr (readByte s.mem s.byteAddr)] } := by
  unfold readPayload at h
  split at h <;> cases h
  exact ⟨‹_›, rfl⟩

/-- What a payload write that answers a next state did (44_transactions R162). -/
theorem writePayload_next {s r : State} (h : writePayload s = .next r) :
    s.byteAddr < 2 ^ s.par.addrWidth ∧
      r = { s.issue (if s.idx + 1 = s.len then .sendNack else .sendAck) with
            mem := writeByte s.mem s.byteAddr s.sr
            out := s.out.storeByte s.byteAddr s.sr
            trace := s.trace ++ [.memWrite s.byteAddr s.sr] } := by
  unfold writePayload at h
  split at h <;> cases h
  exact ⟨‹_›, rfl⟩

/-! ### Parameters -/

theorem PortAction.par_eq {s a : State} (h : PortAction s a) : a.par = s.par := by cases h <;> rfl

theorem Acted.par_eq {s r : State} (h : Acted s r) : r.par = s.par := by
  obtain ⟨a, ha, hr⟩ := h
  rw [hr]
  exact ha.par_eq

/-- An action leaves the command registers, `STATUS`, `PHASE`, `IDX` and the micro-op word alone (10_state R42). -/
theorem Acted.sameControl {s r : State} (h : Acted s r) : Safety.SameControl s r := by
  obtain ⟨a, ha, hr⟩ := h
  rw [hr]
  cases ha <;> exact ⟨rfl, rfl, rfl, rfl, rfl, rfl, rfl, rfl, rfl, rfl, rfl, rfl, rfl, rfl⟩

theorem Acted.uopWord_eq {s r : State} (h : Acted s r) : r.uopWord = s.uopWord := by
  obtain ⟨a, ha, hr⟩ := h
  rw [hr]
  cases ha <;> rfl

theorem Acted.sclRef_eq {s r : State} (h : Acted s r) : r.sclRef = s.sclRef := by
  obtain ⟨-, -, -, -, hscl, -⟩ := h.sameControl
  exact hscl

theorem Acted.sdaRef_eq {s r : State} (h : Acted s r) : r.sdaRef = s.sdaRef := by
  obtain ⟨-, -, -, -, -, hsda, -⟩ := h.sameControl
  exact hsda

theorem Acted.phase_eq {s r : State} (h : Acted s r) : r.phase = s.phase := by
  obtain ⟨-, -, -, -, -, -, -, hphase, -⟩ := h.sameControl
  exact hphase

theorem Choice.par_eq {s r : State} (h : Choice s r) : r.par = s.par := by cases h <;> simp

theorem CoreStep.par_eq {s r : State} (h : CoreStep s r) : r.par = s.par := by
  cases h with
  | reset | wait | complete => rfl
  | run i r _ he =>
    rcases exec_next he with ha | ⟨-, -, rfl⟩
    · exact ha.par_eq
    · rfl
  | choose r _ he => exact (sequence_next he).par_eq
  | memRead r _ he => obtain ⟨-, rfl⟩ := readPayload_next he; rfl
  | memWrite r _ he => obtain ⟨-, rfl⟩ := writePayload_next he; rfl

end Sys2Proof.Machine

namespace Sys2Proof

/-- Settles O50: no part of a step, of the core or of the environment, writes `par`. -/
theorem parametersAreConstant : Obligations.ParametersAreConstant := by
  unfold Obligations.ParametersAreConstant
  intro s t h
  obtain ⟨r, hr, rfl⟩ := Machine.step_next h
  exact hr.par_eq

end Sys2Proof
end

section
/-! Every part of a step keeps every register inside its width and the canonical forms of buffer memory and `DRV`
(00_scope R6, 10_state R22 to R38). -/

namespace Sys2Proof.Safety

open Sys2Proof.Machine

variable {s : State}

/-! ### The state's operations -/

theorem FitsWidths.lineRef_lt (h : FitsWidths s) (l : Line) : s.lineRef l < 2 ^ s.par.pinWidth := by
  obtain ⟨-, -, -, hscl, hsda, -⟩ := h
  cases l with
  | scl => exact hscl
  | sda => exact hsda

/-- Widths are kept by an action that sets one pin and names that pin on `gpio_ref`. -/
theorem FitsWidths.setLine (h : FitsWidths s) (l : Line) (op : BitVec 2) (d : Drive) (tr : List Event) :
    FitsWidths { s with
      out := s.out.gpio op (s.lineRef l), drvLow := setDrive (s.lineRef l) d s.drvLow, trace := tr } := by
  have hl := h.lineRef_lt l
  obtain ⟨hp, hlen, hbuf, hscl, hsda, hidx, ht, -, hma, hm, hms, hd, hdw⟩ := h
  refine ⟨hp, hlen, hbuf, hscl, hsda, hidx, ht, hl, hma, hm, hms, setDrive_wf hd, fun r hr => ?_⟩
  rcases mem_setDrive hr with rfl | hr
  · exact hl
  · exact hdw r hr

theorem FitsWidths.readSda (h : FitsWidths s) : FitsWidths (readSda s) := by
  obtain ⟨hp, hlen, hbuf, hscl, hsda, hidx, ht, -, hrest⟩ := h
  exact ⟨hp, hlen, hbuf, hscl, hsda, hidx, ht, hsda, hrest⟩

theorem FitsWidths.beginDelay (h : FitsWidths s) : FitsWidths (beginDelay s) := by
  obtain ⟨hp, hlen, hbuf, hscl, hsda, hidx, -, hrest⟩ := h
  exact ⟨hp, hlen, hbuf, hscl, hsda, hidx, Nat.two_pow_pos _, hrest⟩

theorem FitsWidths.withIdx (h : FitsWidths s) {k : Nat} (hk : k < 2 ^ s.par.lenWidth) :
    FitsWidths { s with idx := k } := by
  obtain ⟨hp, hlen, hbuf, hscl, hsda, -, hrest⟩ := h
  exact ⟨hp, hlen, hbuf, hscl, hsda, hk, hrest⟩

theorem FitsWidths.noAction (h : FitsWidths s) : FitsWidths s.noAction := h

/-! ### One action of an operation -/

theorem FitsWidths.portAction (h : FitsWidths s) {a : State} (ha : PortAction s a) : FitsWidths a := by
  cases ha with
  | high l => exact h.setLine l _ .rel _
  | low l => exact h.setLine l _ .low _
  | read => exact h.readSda
  | beginDelay => exact h.beginDelay
  | endDelay | none => exact h

theorem FitsWidths.acted (h : FitsWidths s) {r : State} (hr : Acted s r) : FitsWidths r := by
  obtain ⟨a, ha, hr⟩ := hr
  have hfit := h.portAction ha
  rw [hr]
  exact hfit

/-- A latched command fits because its ports have the registers' widths (10_state R34). -/
theorem FitsWidths.latchCommand (h : FitsWidths s) (w : Word) : FitsWidths (latchCommand (offerNow w s) s) := by
  obtain ⟨hp, -, -, -, -, hrest⟩ := h
  exact ⟨hp, Nat.mod_lt _ (Nat.two_pow_pos _), Nat.mod_lt _ (Nat.two_pow_pos _), Nat.mod_lt _ (Nat.two_pow_pos _),
    Nat.mod_lt _ (Nat.two_pow_pos _), hrest⟩

theorem FitsWidths.exec (h : FitsWidths s) {i : Instr} {r : State} (he : exec i s = .next r) : FitsWidths r := by
  rcases exec_next he with ha | ⟨-, -, rfl⟩
  · exact h.acted ha
  · exact h.latchCommand _

/-! ### One choice of the sequencer -/

theorem nextIdx_lt (s : State) : nextIdx s < 2 ^ s.par.lenWidth := Nat.mod_lt _ (Nat.two_pow_pos _)

theorem FitsWidths.payloadLoop (h : FitsWidths s) {k : Nat} (hk : k < 2 ^ s.par.lenWidth) :
    FitsWidths (payloadLoop k s) := by
  rcases payloadLoop_cases k s with ⟨-, he⟩ | ⟨-, -, he⟩ | ⟨-, -, he⟩ <;> rw [he] <;> exact h.withIdx hk

theorem FitsWidths.afterCheck (h : FitsWidths s) {k : Nat} (hk : k < 2 ^ s.par.lenWidth) :
    FitsWidths (afterCheck k s) := by
  unfold Machine.afterCheck
  split
  · exact h
  · exact h.payloadLoop hk

theorem FitsWidths.choice (h : FitsWidths s) {r : State} (hr : Choice s r) : FitsWidths r := by
  cases hr with
  | address | checkAddress | checkByte | received | stopped => exact h
  | addressChecked => exact h.noAction.afterCheck (Nat.two_pow_pos _)
  | byteChecked => exact h.noAction.afterCheck (nextIdx_lt s)
  | acknowledged => exact h.noAction.payloadLoop (nextIdx_lt s)

/-! ### Buffer accesses, reset and the environment -/

theorem FitsWidths.readPayload (h : FitsWidths s) {r : State} (he : readPayload s = .next r) : FitsWidths r := by
  obtain ⟨ha, rfl⟩ := readPayload_next he
  obtain ⟨hp, hlen, hbuf, hscl, hsda, hidx, ht, hg, -, hrest⟩ := h
  exact ⟨hp, hlen, hbuf, hscl, hsda, hidx, ht, hg, ha, hrest⟩

theorem FitsWidths.writePayload (h : FitsWidths s) {r : State} (he : writePayload s = .next r) : FitsWidths r := by
  obtain ⟨ha, rfl⟩ := writePayload_next he
  obtain ⟨hp, hlen, hbuf, hscl, hsda, hidx, ht, hg, -, hm, hms, hd⟩ := h
  exact ⟨hp, hlen, hbuf, hscl, hsda, hidx, ht, hg, ha, writeByte_wf hm, writeByte_inSpace hms ha, hd⟩

theorem FitsWidths.resetBlock (h : FitsWidths s) : FitsWidths (resetBlock s) := by
  obtain ⟨hp, -, -, -, -, -, ht, -, -, hrest⟩ := h
  exact ⟨hp, Nat.two_pow_pos _, Nat.two_pow_pos _, Nat.two_pow_pos _, Nat.two_pow_pos _, Nat.two_pow_pos _, ht,
    Nat.two_pow_pos _, Nat.two_pow_pos _, hrest⟩

/-- Other agents drive only pins that have a reference (10_state R25, R35). -/
theorem pinActs_lt {c : List (Nat × Drive)} {l : List Nat} (h : ∀ r ∈ l, r < 2 ^ s.par.pinWidth) :
    ∀ r ∈ c.foldl (otherPinAct s) l, r < 2 ^ s.par.pinWidth := by
  induction c generalizing l with
  | nil => exact h
  | cons x c ih =>
    refine ih fun r hr => ?_
    unfold otherPinAct at hr
    split at hr
    · rcases mem_setDrive hr with rfl | hr
      · exact Nat.mod_lt _ (Nat.two_pow_pos _)
      · exact h r hr
    · exact h r hr

theorem FitsWidths.envStep (h : FitsWidths s) : FitsWidths (envStep s) := by
  obtain ⟨hp, hlen, hbuf, hscl, hsda, hidx, -, hg, hma, hm, hms, hd, hdw⟩ := h
  exact ⟨hp, hlen, hbuf, hscl, hsda, hidx, ticked_lt _ _ _, hg, hma, hostWrites_wf hm, hostWrites_inSpace hms,
    pinActs_wf hd, pinActs_lt hdw⟩

/-! ### A whole step -/

theorem FitsWidths.coreStep (h : FitsWidths s) {r : State} (hr : CoreStep s r) : FitsWidths r := by
  cases hr with
  | reset => exact h.resetBlock
  | wait | complete => exact h
  | run i r _ he => exact h.exec he
  | choose r _ he => exact h.choice (sequence_next he)
  | memRead r _ he => exact h.readPayload he
  | memWrite r _ he => exact h.writePayload he

end Sys2Proof.Safety

namespace Sys2Proof

/-- Settles O43: each of the core's seven kinds of step keeps the widths, and so does the environment's part. -/
theorem widthsAndCanonicalFormsAreKept : Obligations.WidthsAndCanonicalFormsAreKept := by
  unfold Obligations.WidthsAndCanonicalFormsAreKept
  intro s t h hst
  obtain ⟨r, hr, rfl⟩ := Machine.step_next hst
  exact (h.coreStep hr).envStep

end Sys2Proof
end

section
/-! The compound micro-ops, an action at a time: what the action at `UPOS` emits, and how it moves the position, for the
seven step lists at once (10_state R29, 40_delay_and_lines R91, 41_start_stop, 42_byte_shift, 43_ack). -/

namespace Sys2Proof.Safety

open Sys2Proof.Machine

/-! ### The step lists, position by position -/

/-- The decoder reads a compound micro-op back from its word (30_encoding R78). -/
theorem decodeUop_encode {i : Instr} (hi : compound i = true) : decodeUop (encode i) = .ok i := by
  cases i with
  | txByte b => revert b; decide
  | start | stop | rxByte | checkAck | sendAck | sendNack => decide
  | write | read | delayHalf | lineHigh | lineLow | lineRead => cases hi

/-- An entry of a concatenation of blocks of equal length is an entry of one block. -/
theorem getElem?_flatMap_block {α β : Type} {f : α → List β} {n : Nat} (hf : ∀ a, (f a).length = n) (l : List α)
    (q : Nat) {j : Nat} (hj : j < n) : (l.flatMap f)[n * q + j]? = l[q]?.bind fun a => (f a)[j]? := by
  induction l generalizing q with
  | nil => simp
  | cons a l ih =>
    rw [List.flatMap_cons]
    cases q with
    | zero =>
      rw [List.getElem?_append_left (by rw [hf]; omega)]
      simp
    | succ q =>
      rw [List.getElem?_append_right (by rw [hf, Nat.mul_succ]; omega), hf,
        show n * (q + 1) + j - n = n * q + j by rw [Nat.mul_succ]; omega, ih]
      simp

/-- The `q`-th bit on the wire is bit `7 - q` (42_byte_shift R122). -/
theorem wireBits_getElem? (b : Byte) {q : Nat} (hq : q < 8) : (wireBits b)[q]? = some (bitOf b (7 - q)) := by
  interval_cases q <;> rfl

/-- Action `k` of TX_BYTE belongs to bit `7 - k / 5` (42_byte_shift R120). -/
theorem txTrace_getElem? (c d : Nat) (b : Byte) {k : Nat} (hk : k < 40) :
    (txTrace c d b)[k]? = [bitEvent d (bitOf b (7 - k / 5)), .high c, .delay, .low c, .delay][k % 5]? := by
  have hblock := getElem?_flatMap_block (f := fun v => [bitEvent d v, .high c, .delay, .low c, .delay]) (n := 5)
    (fun _ => rfl) (wireBits b) (k / 5) (Nat.mod_lt k (by decide))
  rw [Nat.div_add_mod, wireBits_getElem? b (by omega)] at hblock
  exact hblock

/-- Action `k + 1` of RX_BYTE belongs to bit `7 - k / 5` (42_byte_shift R121). -/
theorem rxTrace_getElem?_succ (c d : Nat) (b : Byte) {k : Nat} (hk : k < 40) :
    (rxTrace c d b)[k + 1]? = [.high c, .delay, .sample d (bitOf b (7 - k / 5)), .low c, .delay][k % 5]? := by
  have hblock := getElem?_flatMap_block (f := fun v => [Event.high c, .delay, .sample d v, .low c, .delay]) (n := 5)
    (fun _ => rfl) (wireBits b) (k / 5) (Nat.mod_lt k (by decide))
  rw [Nat.div_add_mod, wireBits_getElem? b (by omega)] at hblock
  exact hblock

/-! ### One step of a compound micro-op -/

/-- `r` is `s` after the line action with event `e` that the step list of micro-op `i` has at `UPOS`: the position moves
on, and a sample goes to `ACKBIT` or into `SR` (43_ack R140, 42_byte_shift R121). -/
structure ActsAt (i : Instr) (s : State) (e : Event) (r : State) : Prop where
  delay : delayAt i s.upos = false
  event : actionEvent s.sclRef s.sdaRef i s.upos s.sdaRead = some e
  trace : r.trace = s.trace ++ [e]
  upos : r.upos = s.upos + 1
  due : r.due = s.due
  dlyWait : r.dlyWait = s.dlyWait
  tcnt : r.tcnt = s.tcnt
  ackbit : i = .checkAck → r.ackbit = if s.upos = 3 then s.sdaRead else s.ackbit
  sr : i = .rxByte → r.sr = if s.upos % 5 = 3 then (s.sr.extractLsb' 0 7 ++ s.sdaRead : BitVec (7 + 1)) else s.sr

/-- `r` is `s` after the end of the delay that micro-op `i` has at `UPOS`: nothing is emitted, and the position moves on or
the micro-op has ended (40_delay_and_lines R90). -/
structure DelayEndsAt (i : Instr) (s r : State) : Prop where
  delay : delayAt i s.upos = true
  waiting : s.dlyWait = 1#1
  threshold : s.par.halfTicks ≤ s.tcnt
  trace : r.trace = s.trace
  dlyWait : r.dlyWait = 0#1
  tcnt : r.tcnt = s.tcnt
  position : if s.upos + 1 = opLength i then r.upos = 0 ∧ r.due = .ended else r.upos = s.upos + 1 ∧ r.due = s.due
  ackbit : r.ackbit = s.ackbit
  sr : i = .rxByte → r.sr = s.sr

/-- Everything a step of compound micro-op `i` can do to the trace and to the position. -/
inductive MicroOpStep (i : Instr) (s : State) : State → Prop where
  | acts {e : Event} {r : State} (h : ActsAt i s e r) : MicroOpStep i s r
  | delayBegins (hdelay : delayAt i s.upos = true) (hw : s.dlyWait = 0#1) : MicroOpStep i s (beginDelay s)
  | waits (hdelay : delayAt i s.upos = true) (hw : s.dlyWait = 1#1) (ht : s.tcnt < s.par.halfTicks) :
      MicroOpStep i s s.noAction
  | delayEnds {r : State} (h : DelayEndsAt i s r) : MicroOpStep i s r

variable {i : Instr} {s : State} {k : Nat}

/-- A line action that samples nothing. -/
theorem MicroOpStep.of_line {r : State} (e : Event) (hk : s.upos = k) (hdelay : delayAt i k = false)
    (hevent : actionEvent s.sclRef s.sdaRef i k s.sdaRead = some e) (hsample : sampleAt i k = false)
    (hr : r.trace = s.trace ++ [e] ∧ r.upos = s.upos + 1 ∧ r.due = s.due ∧ r.dlyWait = s.dlyWait ∧ r.tcnt = s.tcnt ∧
      r.ackbit = s.ackbit ∧ (i = .rxByte → r.sr = s.sr)) : MicroOpStep i s r := by
  subst hk
  obtain ⟨htrace, hpos, hdue, hwait, htcnt, hack, hsr⟩ := hr
  refine .acts ⟨hdelay, hevent, htrace, hpos, hdue, hwait, htcnt, ?_, ?_⟩
  · rintro rfl
    rw [hack, if_neg (by simpa [sampleAt] using hsample)]
  · intro hi
    rw [hsr hi]
    subst hi
    rw [if_neg (by simpa [sampleAt] using hsample)]

theorem MicroOpStep.of_high (l : Line) (hk : s.upos = k) (hdelay : delayAt i k = false)
    (hevent : actionEvent s.sclRef s.sdaRef i k s.sdaRead = some (.high (s.lineRef l)))
    (hsample : sampleAt i k = false) : MicroOpStep i s (setLineHigh l s).nextPos :=
  .of_line _ hk hdelay hevent hsample ⟨rfl, rfl, rfl, rfl, rfl, rfl, fun _ => rfl⟩

theorem MicroOpStep.of_low (l : Line) (hk : s.upos = k) (hdelay : delayAt i k = false)
    (hevent : actionEvent s.sclRef s.sdaRef i k s.sdaRead = some (.low (s.lineRef l)))
    (hsample : sampleAt i k = false) : MicroOpStep i s (setLineLow l s).nextPos :=
  .of_line _ hk hdelay hevent hsample ⟨rfl, rfl, rfl, rfl, rfl, rfl, fun _ => rfl⟩

/-- A delay whose end, `fin`, moves the position as the step list says. -/
theorem MicroOpStep.of_delayStep {fin : State → State} (hdelay : delayAt i s.upos = true)
    (hfin : ∀ x : State, x.upos = s.upos → x.due = s.due → x.bitcnt = s.bitcnt →
      SameButPosition x (fin x) ∧ (fin x).ackbit = x.ackbit ∧ (i = .rxByte → (fin x).sr = x.sr) ∧
      (if s.upos + 1 = opLength i then (fin x).upos = 0 ∧ (fin x).due = .ended
        else (fin x).upos = s.upos + 1 ∧ (fin x).due = s.due)) : MicroOpStep i s (delayStep fin s) := by
  rcases delayStep_cases fin s with ⟨hw, h⟩ | ⟨hw, ht, h⟩ | ⟨hw, ht, h⟩ <;> rw [h]
  · exact .delayBegins hdelay hw
  · obtain ⟨hsame, hack, hsr, hpos⟩ := hfin (endDelay s) rfl rfl rfl
    refine .delayEnds ⟨hdelay, hw, ht, ?_, ?_, ?_, hpos, hack, hsr⟩
    all_goals rw [hsame]; rfl
  · exact .waits hdelay hw ht

theorem MicroOpStep.of_delay (hk : s.upos = k) (hdelay : delayAt i k = true) (hlast : k + 1 ≠ opLength i) :
    MicroOpStep i s (delayStep State.nextPos s) := by
  subst hk
  refine .of_delayStep hdelay fun x hx hdue _ => ⟨rfl, rfl, fun _ => rfl, ?_⟩
  rw [if_neg hlast]
  exact ⟨congrArg (· + 1) hx, hdue⟩

theorem MicroOpStep.of_lastDelay (hk : s.upos = k) (hdelay : delayAt i k = true) (hlast : k + 1 = opLength i) :
    MicroOpStep i s (delayStep State.endUop s) := by
  subst hk
  refine .of_delayStep hdelay fun x _ _ _ => ⟨rfl, rfl, fun _ => rfl, ?_⟩
  rw [if_pos hlast]
  exact ⟨rfl, rfl⟩

/-! ### The seven micro-ops -/

theorem execStart_step {r : State} (h : execStart s = .next r) : MicroOpStep .start s r := by
  unfold execStart at h
  split at h <;> cases h
  exacts [.of_high .sda ‹_› rfl rfl rfl, .of_high .scl ‹_› rfl rfl rfl, .of_delay ‹_› rfl (by decide),
    .of_low .sda ‹_› rfl rfl rfl, .of_delay ‹_› rfl (by decide), .of_low .scl ‹_› rfl rfl rfl,
    .of_lastDelay ‹_› rfl rfl]

theorem execStop_step {r : State} (h : execStop s = .next r) : MicroOpStep .stop s r := by
  unfold execStop at h
  split at h <;> cases h
  exacts [.of_low .scl ‹_› rfl rfl rfl, .of_low .sda ‹_› rfl rfl rfl, .of_delay ‹_› rfl (by decide),
    .of_high .scl ‹_› rfl rfl rfl, .of_delay ‹_› rfl (by decide), .of_high .sda ‹_› rfl rfl rfl,
    .of_lastDelay ‹_› rfl rfl]

theorem execCheckAck_step {r : State} (h : execCheckAck s = .next r) : MicroOpStep .checkAck s r := by
  unfold execCheckAck at h
  split at h <;> cases h
  case h_4 hk =>
    exact .acts ⟨by rw [hk]; rfl, by rw [hk]; rfl, rfl, rfl, rfl, rfl, rfl, fun _ => (if_pos hk).symm, nofun⟩
  exacts [.of_high .sda ‹_› rfl rfl rfl, .of_high .scl ‹_› rfl rfl rfl, .of_delay ‹_› rfl (by decide),
    .of_low .scl ‹_› rfl rfl rfl, .of_lastDelay ‹_› rfl rfl]

theorem execSendAck_step {r : State} (h : execSendAck s = .next r) : MicroOpStep .sendAck s r := by
  unfold execSendAck at h
  split at h <;> cases h
  exacts [.of_low .sda ‹_› rfl rfl rfl, .of_high .scl ‹_› rfl rfl rfl, .of_delay ‹_› rfl (by decide),
    .of_low .scl ‹_› rfl rfl rfl, .of_high .sda ‹_› rfl rfl rfl, .of_lastDelay ‹_› rfl rfl]

theorem execSendNack_step {r : State} (h : execSendNack s = .next r) : MicroOpStep .sendNack s r := by
  unfold execSendNack at h
  split at h <;> cases h
  exacts [.of_high .sda ‹_› rfl rfl rfl, .of_high .scl ‹_› rfl rfl rfl, .of_delay ‹_› rfl (by decide),
    .of_low .scl ‹_› rfl rfl rfl, .of_lastDelay ‹_› rfl rfl]

/-- Bit 7 of a byte shifted left is the bit that shift has brought there. -/
theorem bitOf_shiftLeft_seven (b : Byte) {q : Nat} (hq : q < 8) : bitOf (b <<< q) 7 = bitOf b (7 - q) := by
  ext j hj
  obtain rfl : j = 0 := by omega
  simp only [bitOf, BitVec.getElem_extractLsb', BitVec.getLsbD_shiftLeft]
  have hle : ¬ 7 < q := by omega
  simp [hle]

theorem driveBit_trace (s : State) : (driveBit s).trace = s.trace ++ [bitEvent s.sdaRef (bitOf s.sr 7)] := by
  rcases driveBit_cases s with ⟨h, hd⟩ | ⟨h, hd⟩ <;> rw [hd]
  · rw [setLineHigh_trace, bitEvent, bitOf, if_pos h]; rfl
  · rw [setLineLow_trace, bitEvent, bitOf, if_neg h]; rfl

/-- A bit event of TX_BYTE. -/
theorem MicroOpStep.of_driveBit {b : Byte} {x : State} (hk : s.upos < 40) (hmod : s.upos % 5 = 0)
    (hx : SameButPosition s x) (hpos : x.upos = s.upos) (hdue : x.due = s.due) (hack : x.ackbit = s.ackbit)
    (hsr : bitOf x.sr 7 = bitOf b (7 - s.upos / 5)) : MicroOpStep (.txByte b) s (driveBit x).nextPos := by
  have hacted : (driveBit x).upos = x.upos ∧ (driveBit x).due = x.due ∧ (driveBit x).dlyWait = x.dlyWait ∧
      (driveBit x).tcnt = x.tcnt ∧ (driveBit x).ackbit = x.ackbit := by
    rcases driveBit_cases x with ⟨-, h⟩ | ⟨-, h⟩ <;> rw [h] <;> exact ⟨rfl, rfl, rfl, rfl, rfl⟩
  obtain ⟨hpos', hdue', hwait', htcnt', hack'⟩ := hacted
  refine .of_line (bitEvent s.sdaRef (bitOf b (7 - s.upos / 5))) rfl (by simp [delayAt, hmod])
    ((txTrace_getElem? _ _ b hk).trans (by rw [hmod]; rfl)) rfl
    ⟨?_, ?_, hdue'.trans hdue, hwait'.trans ?_, htcnt'.trans ?_, hack'.trans hack, nofun⟩
  · rw [State.nextPos_trace, driveBit_trace, hsr, hx]
  · rw [State.nextPos_upos, hpos', hpos]
  all_goals rw [hx]

/-- The loop test at the end of bit `7 - q` (42_byte_shift R120, R121). -/
theorem endBit_position {x : State} {q : Nat} (hq : q < 8) (hbit : x.bitcnt = BitVec.ofNat 4 (8 - q)) :
    if q = 7 then (endBit x).upos = 0 ∧ (endBit x).due = .ended
    else (endBit x).upos = x.upos + 1 ∧ (endBit x).due = x.due := by
  have hone : x.bitcnt = 1#4 ↔ q = 7 := by
    rw [hbit]
    interval_cases q <;> decide
  rcases endBit_cases x with ⟨hb, he⟩ | ⟨hb, he⟩
  · rw [if_pos (hone.mp hb), he]
    exact ⟨rfl, rfl⟩
  · rw [if_neg (hone.not.mp hb), he]
    exact ⟨rfl, rfl⟩

theorem execTxByte_step {b : Byte} {r : State} (hs : ShiftAt (.txByte b) s) (h : execTxByte b s = .next r) :
    MicroOpStep (.txByte b) s r := by
  unfold execTxByte at h
  split at h
  · cases h
  rename_i hlt
  have hk : s.upos < 40 := by omega
  have hevent := txTrace_getElem? s.sclRef s.sdaRef b hk
  split at h
  · rename_i h0
    cases h
    exact .of_driveBit hk (by rw [h0]) rfl rfl rfl rfl (by rw [h0]; rfl)
  rename_i h0
  obtain ⟨hsr, hbit⟩ := hs.resolve_left h0
  split at h <;> rename_i hmod <;> cases h
  · exact .of_driveBit hk hmod rfl rfl rfl rfl (hsr ▸ bitOf_shiftLeft_seven b (by omega))
  · exact .of_high .scl rfl (by simp [delayAt, hmod]) (hevent.trans (by rw [hmod]; rfl)) rfl
  · exact .of_delay rfl (by simp [delayAt, hmod]) (by simp only [opLength]; omega)
  · exact .of_low .scl rfl (by simp [delayAt, hmod]) (hevent.trans (by rw [hmod]; rfl)) rfl
  · have hfour : s.upos % 5 = 4 := by simp only [imp_false] at *; omega
    refine .of_delayStep (by simp [delayAt, hfour]) fun x hx hdue hbc => ⟨endTxBit_sameButPosition x, ?_, nofun, ?_⟩
    · simp
    · have hend := endBit_position (x := shiftIn 0#1 x) (q := s.upos / 5) (by omega) (hbc.trans hbit)
      rw [shiftIn_upos, shiftIn_due, hx, hdue] at hend
      simpa only [endTxBit, opLength, show s.upos + 1 = 40 ↔ s.upos / 5 = 7 by omega] using hend

/-- Every bit of the byte that repeats `v` is `v`. -/
theorem bitOf_replicated (v : Bit) {q : Nat} (hq : q < 8) : bitOf (if v = 1#1 then 0xFF#8 else 0x00#8) q = v := by
  revert v
  interval_cases q <;> decide

theorem execRxByte_step {r : State} (hs : ShiftAt .rxByte s) (h : execRxByte s = .next r) :
    MicroOpStep .rxByte s r := by
  unfold execRxByte at h
  split at h
  · cases h
  rename_i hlt
  split at h
  · rename_i h0
    cases h
    exact .of_line _ h0 rfl rfl rfl ⟨rfl, rfl, rfl, rfl, rfl, rfl, fun _ => rfl⟩
  rename_i h0
  obtain ⟨k, hk⟩ : ∃ k, s.upos = k + 1 := Nat.exists_eq_succ_of_ne_zero h0
  have hk' : k < 40 := by omega
  have hbit : s.bitcnt = BitVec.ofNat 4 (8 - k / 5) := by simpa [hk] using hs.resolve_left h0
  have hevent := rxTrace_getElem?_succ s.sclRef s.sdaRef (if s.sdaRead = 1#1 then 0xFF#8 else 0x00#8) hk'
  split at h <;> rename_i hmod <;> rw [hk] at hmod <;> cases h
  · exact .of_high .scl hk (by simp [delayAt, hmod]) (hevent.trans (by rw [show k % 5 = 0 by omega]; rfl))
      (by simp [sampleAt, hmod])
  · exact .of_delay hk (by simp [delayAt, hmod]) (by simp only [opLength]; omega)
  · have hmod' : s.upos % 5 = 3 := by rw [hk, hmod]
    refine .acts ⟨by simp [delayAt, hmod'], ?_, rfl, rfl, rfl, rfl, rfl, nofun, fun _ => (if_pos hmod').symm⟩
    rw [hk]
    refine hevent.trans ?_
    rw [show k % 5 = 2 by omega, bitOf_replicated s.sdaRead (by omega)]
    rfl
  · exact .of_low .scl hk (by simp [delayAt, hmod]) (hevent.trans (by rw [show k % 5 = 3 by omega]; rfl))
      (by simp [sampleAt, hmod])
  · have hzero : s.upos % 5 = 0 := by simp only [imp_false] at *; omega
    refine .of_delayStep (by simp [delayAt, hzero, h0]) fun x hx hdue hbc =>
      ⟨endBit_sameButPosition x, by simp, fun _ => by simp, ?_⟩
    have hend := endBit_position (x := x) (q := k / 5) (by omega) (hbc.trans hbit)
    rw [hx, hdue] at hend
    simpa only [opLength, show s.upos + 1 = 41 ↔ k / 5 = 7 by omega] using hend

/-- A step of a compound micro-op is a step of its step list (10_state R29, 40_delay_and_lines R91). -/
theorem exec_microOpStep {r : State} (hi : compound i = true) (hs : ShiftAt i s) (h : exec i s = .next r) :
    MicroOpStep i s r := by
  cases i with
  | start => exact execStart_step h
  | stop => exact execStop_step h
  | txByte b => exact execTxByte_step hs h
  | rxByte => exact execRxByte_step hs h
  | checkAck => exact execCheckAck_step h
  | sendAck => exact execSendAck_step h
  | sendNack => exact execSendNack_step h
  | write | read | delayHalf | lineHigh | lineLow | lineRead => cases hi

end Sys2Proof.Safety
end

section
/-! A step of a compound micro-op extends what the micro-op has emitted so far by exactly the events it adds to the trace
(40_delay_and_lines R91, R96). -/

namespace Sys2Proof.Safety

open Sys2Proof.Machine

/-! ### The step list of a micro-op -/

/-- The whole step list of a compound micro-op whose samples give the bits of `b` (RX_BYTE) or `a` (CHECK_ACK). -/
def stepList (c d : Nat) (i : Instr) (b : Byte) (a : Bit) : List Event :=
  match i with
  | .start => startTrace c d
  | .stop => stopTrace c d
  | .txByte v => txTrace c d v
  | .rxByte => rxTrace c d b
  | .checkAck => checkTrace c d a
  | .sendAck => sendAckTrace c d
  | .sendNack => sendNackTrace c d
  | .write _ | .read _ | .delayHalf | .lineHigh _ | .lineLow _ | .lineRead => []

variable {i : Instr} {s r : State}

theorem uopTrace_eq_stepList (hi : compound i = true) (hu : s.uopWord = encode i) :
    uopTrace s = stepList s.sclRef s.sdaRef i (if s.due = .uop then receivedSoFar s else s.sr) s.ackbit := by
  unfold uopTrace
  rw [hu, decodeUop_encode hi]
  cases i with
  | start | stop | txByte | rxByte | checkAck | sendAck | sendNack => rfl
  | write | read | delayHalf | lineHigh | lineLow | lineRead => cases hi

theorem actionEvent_eq_stepList (hi : compound i = true) (c d k : Nat) (v : Bit) :
    actionEvent c d i k v = (stepList c d i (if v = 1#1 then 0xFF#8 else 0x00#8) v)[k]? := by
  cases i with
  | start | stop | txByte | rxByte | checkAck | sendAck | sendNack => rfl
  | write | read | delayHalf | lineHigh | lineLow | lineRead => cases hi

theorem stepList_length (hi : compound i = true) (c d : Nat) (b : Byte) (a : Bit) :
    (stepList c d i b a).length = opLength i := by
  cases i with
  | start | stop | txByte | rxByte | checkAck | sendAck | sendNack => rfl
  | write | read | delayHalf | lineHigh | lineLow | lineRead => cases hi

/-- Only RX_BYTE depends on the byte received. -/
theorem stepList_congr_byte {b b' : Byte} (hb : i = .rxByte → b = b') (c d : Nat) (a : Bit) :
    stepList c d i b a = stepList c d i b' a := by
  cases i with
  | rxByte => rw [hb rfl]
  | _ => rfl

/-- Position `k` of a step list depends only on what is sampled at `k`. -/
theorem stepList_getElem?_congr {b b' : Byte} {a a' : Bit} {k : Nat} (hk : k < opLength i)
    (hb : i = .rxByte → k % 5 = 3 → bitOf b (7 - k / 5) = bitOf b' (7 - k / 5))
    (ha : i = .checkAck → k = 3 → a = a') (c d : Nat) :
    (stepList c d i b a)[k]? = (stepList c d i b' a')[k]? := by
  cases i with
  | rxByte =>
    cases k with
    | zero => rfl
    | succ k =>
      have hk' : k < 40 := Nat.lt_of_succ_lt_succ hk
      simp only [stepList]
      rw [rxTrace_getElem?_succ c d b hk', rxTrace_getElem?_succ c d b' hk']
      by_cases hmod : k % 5 = 2
      · have hbit := hb rfl (by omega)
        rw [show (k + 1) / 5 = k / 5 by omega] at hbit
        rw [hbit]
      · rcases (by omega : k % 5 = 0 ∨ k % 5 = 1 ∨ k % 5 = 3 ∨ k % 5 = 4) with h | h | h | h <;> rw [h] <;> rfl
  | checkAck =>
    by_cases h3 : k = 3
    · rw [ha rfl h3]
      rfl
    · simp only [opLength] at hk
      rcases (by omega : k = 0 ∨ k = 1 ∨ k = 2 ∨ k = 4 ∨ k = 5) with rfl | rfl | rfl | rfl | rfl <;> rfl
  | _ => rfl

/-- Where the step list has a DELAY_HALF its event is `D`. -/
theorem stepList_getElem?_delay {k : Nat} (hi : compound i = true) (hk : k < opLength i) (hd : delayAt i k = true)
    (c d : Nat) (b : Byte) (a : Bit) : (stepList c d i b a)[k]? = some .delay := by
  cases i with
  | txByte v =>
    simp only [stepList]
    rw [txTrace_getElem? c d v hk]
    rcases (by simpa [delayAt] using hd : k % 5 = 2 ∨ k % 5 = 4) with h | h <;> rw [h] <;> rfl
  | rxByte =>
    cases k with
    | zero => cases hd
    | succ k =>
      simp only [stepList]
      rw [rxTrace_getElem?_succ c d b (Nat.lt_of_succ_lt_succ hk)]
      rcases (by simpa [delayAt] using hd : (k + 1) % 5 = 2 ∨ (k + 1) % 5 = 0) with h | h
      · rw [show k % 5 = 1 by omega]; rfl
      · rw [show k % 5 = 4 by omega]; rfl
  | start | stop =>
    rcases (by simpa [delayAt, or_assoc] using hd : k = 2 ∨ k = 4 ∨ k = 6) with rfl | rfl | rfl <;> rfl
  | checkAck | sendAck =>
    rcases (by simpa [delayAt] using hd : k = 2 ∨ k = 5) with rfl | rfl <;> rfl
  | sendNack =>
    rcases (by simpa [delayAt] using hd : k = 2 ∨ k = 4) with rfl | rfl <;> rfl
  | write | read | delayHalf | lineHigh | lineLow | lineRead => cases hi

/-! ### The bits received so far -/

/-- Of a byte into which `v` was shifted, moved up by `n`: bit `n` is `v`, and the others are those of the byte before. -/
theorem bitOf_shiftIn (x : Byte) (v : Bit) {n m : Nat} (hm : m < 8) :
    bitOf ((x.extractLsb' 0 7 ++ v : BitVec (7 + 1)) <<< n) m = if m = n then v else bitOf (x <<< (n + 1)) m := by
  have happend (j : Nat) : (x.extractLsb' 0 7 ++ v : BitVec (7 + 1)).getLsbD j =
      if j < 1 then v.getLsbD j else (x.extractLsb' 0 7).getLsbD (j - 1) := BitVec.getLsbD_append
  ext j hj
  obtain rfl : j = 0 := by omega
  simp only [bitOf, BitVec.getElem_extractLsb', BitVec.getLsbD_shiftLeft, happend]
  split_ifs with hlow hn hn
  · subst hn
    simp [hm]
  · simp [show m < n by omega, show m < n + 1 by omega]
  · omega
  · rw [show m + 0 - n - 1 = m + 0 - (n + 1) by omega]
    simp [hm, show ¬ m < n by omega, show ¬ m < n + 1 by omega, show m - (n + 1) < 7 by omega,
      BitVec.getLsbD_eq_getElem (show m - (n + 1) < 8 by omega)]

/-- The position moves on without a sample. -/
theorem receivedSoFar_of_no_sample (hsr : r.sr = s.sr) (hpos : r.upos = s.upos + 1) (hmod : s.upos % 5 ≠ 3) :
    receivedSoFar r = receivedSoFar s := by
  unfold receivedSoFar
  rw [hsr, hpos, show (s.upos + 1 + 1) / 5 = (s.upos + 1) / 5 by omega]

/-- A sample adds its bit below those received before. -/
theorem bitOf_receivedSoFar_of_sample {v : Bit} (hsr : r.sr = (s.sr.extractLsb' 0 7 ++ v : BitVec (7 + 1)))
    (hpos : r.upos = s.upos + 1) (hmod : s.upos % 5 = 3) (hk : s.upos < 41) {m : Nat} (hm : m < 8) :
    bitOf (receivedSoFar r) m = if m = 7 - s.upos / 5 then v else bitOf (receivedSoFar s) m := by
  unfold receivedSoFar
  rw [hsr, hpos, show 8 - (s.upos + 1 + 1) / 5 = 7 - s.upos / 5 by omega,
    show 8 - (s.upos + 1) / 5 = 7 - s.upos / 5 + 1 by omega]
  exact bitOf_shiftIn _ _ hm

/-! ### One step -/

theorem take_succ_eq {α : Type} {l l' : List α} {k : Nat} {e : α} (hbefore : ∀ j < k, l'[j]? = l[j]?)
    (hk : l'[k]? = some e) : l'.take (k + 1) = l.take k ++ [e] := by
  rw [List.take_add_one, hk]
  congr 1
  refine List.ext_getElem? fun j => ?_
  by_cases hj : j < k
  · simp only [List.getElem?_take_of_lt hj, hbefore j hj]
  · rw [List.getElem?_eq_none (by simp; omega), List.getElem?_eq_none (by simp; omega)]

theorem uopSoFar_of_running (hdue : s.due = .uop) : uopSoFar s = (uopTrace s).take (s.upos + s.dlyWait.toNat) :=
  if_pos hdue

theorem uopSoFar_of_over (hdue : s.due ≠ .uop) : uopSoFar s = uopTrace s := if_neg hdue

theorem uopTrace_of_running (hi : compound i = true) (hu : s.uopWord = encode i) (hdue : s.due = .uop) :
    uopTrace s = stepList s.sclRef s.sdaRef i (receivedSoFar s) s.ackbit := by
  rw [uopTrace_eq_stepList hi hu, if_pos hdue]

theorem uopTrace_of_over (hi : compound i = true) (hu : s.uopWord = encode i) (hdue : s.due ≠ .uop) :
    uopTrace s = stepList s.sclRef s.sdaRef i s.sr s.ackbit := by
  rw [uopTrace_eq_stepList hi hu, if_neg hdue]

/-- A line action of micro-op `i` extends what `i` has emitted by the event of the step list. -/
theorem uopSoFar_of_actsAt {e : Event} (hi : compound i = true) (hu : s.uopWord = encode i) (hdue : s.due = .uop)
    (hlt : s.upos < opLength i) (hw : s.dlyWait = 0#1) (hr : Acted s r) (h : ActsAt i s e r) :
    uopSoFar r = uopSoFar s ++ [e] := by
  have hlt41 : i = .rxByte → s.upos < 41 := by rintro rfl; exact hlt
  have hdr := h.due.trans hdue
  rw [uopSoFar_of_running hdue, uopSoFar_of_running hdr, uopTrace_of_running hi hu hdue,
    uopTrace_of_running hi (hr.uopWord_eq.trans hu) hdr, h.dlyWait, hw, h.upos, hr.sclRef_eq, hr.sdaRef_eq]
  refine take_succ_eq (fun j hj => ?_) (Eq.trans ?_ h.event)
  · refine stepList_getElem?_congr (by omega) (fun hrx hmod => ?_) (fun hck h3 => ?_) _ _
    · by_cases hs : s.upos % 5 = 3
      · rw [bitOf_receivedSoFar_of_sample ((h.sr hrx).trans (if_pos hs)) h.upos hs (hlt41 hrx) (by omega),
          if_neg (by have := hlt41 hrx; omega)]
      · rw [receivedSoFar_of_no_sample ((h.sr hrx).trans (if_neg hs)) h.upos hs]
    · rw [h.ackbit hck, if_neg (by omega)]
  · rw [actionEvent_eq_stepList hi]
    refine stepList_getElem?_congr hlt (fun hrx hmod => ?_) (fun hck h3 => ?_) _ _
    · rw [bitOf_receivedSoFar_of_sample ((h.sr hrx).trans (if_pos hmod)) h.upos hmod (hlt41 hrx) (by omega), if_pos rfl,
        bitOf_replicated _ (by omega)]
    · rw [h.ackbit hck, if_pos h3]

/-- The beginning of a delay of micro-op `i` extends what `i` has emitted by `D`. -/
theorem uopSoFar_beginDelay (hi : compound i = true) (hu : s.uopWord = encode i) (hdue : s.due = .uop)
    (hlt : s.upos < opLength i) (hd : delayAt i s.upos = true) (hw : s.dlyWait = 0#1) :
    uopSoFar (beginDelay s) = uopSoFar s ++ [.delay] := by
  rw [uopSoFar_of_running hdue, uopSoFar_of_running (s := beginDelay s) hdue, hw]
  refine take_succ_eq (fun _ _ => rfl) ?_
  rw [uopTrace_of_running (s := beginDelay s) hi hu hdue]
  exact stepList_getElem?_delay hi hlt hd _ _ _ _

/-- The end of a delay of micro-op `i` adds nothing to what `i` has emitted. -/
theorem uopSoFar_of_delayEndsAt (hi : compound i = true) (hu : s.uopWord = encode i) (hdue : s.due = .uop)
    (hr : Acted s r) (h : DelayEndsAt i s r) : uopSoFar r = uopSoFar s := by
  have hur := hr.uopWord_eq.trans hu
  have hpos := h.position
  rw [uopSoFar_of_running hdue, uopTrace_of_running hi hu hdue, h.waiting]
  split at hpos
  · rename_i hlast
    obtain ⟨-, hdr⟩ := hpos
    have hover : r.due ≠ .uop := by rw [hdr]; decide
    rw [uopSoFar_of_over hover, uopTrace_of_over hi hur hover, hr.sclRef_eq, hr.sdaRef_eq, h.ackbit,
      List.take_of_length_le (by rw [stepList_length hi]; simp [hlast])]
    refine stepList_congr_byte (fun hrx => ?_) _ _ _
    subst hrx
    rw [h.sr rfl, receivedSoFar, hlast]
    exact (BitVec.shiftLeft_zero _).symm
  · obtain ⟨hup, hdr⟩ := hpos
    rw [uopSoFar_of_running (hdr.trans hdue), uopTrace_of_running hi hur (hdr.trans hdue), h.dlyWait, hup, hr.sclRef_eq,
      hr.sdaRef_eq, h.ackbit]
    refine congrArg (List.take (s.upos + 1)) (stepList_congr_byte (fun hrx => ?_) _ _ _)
    refine receivedSoFar_of_no_sample (h.sr hrx) hup ?_
    have hd := h.delay
    subst hrx
    simp only [delayAt, Bool.or_eq_true, Bool.and_eq_true, beq_iff_eq] at hd
    omega

/-- Inside a micro-op, `UOP` holds it and `UPOS` is one of its positions. -/
theorem Performing.running (hp : Performing i s) (hdue : s.due = .uop) :
    s.uopWord = encode i ∧ s.upos < opLength i ∧ (s.dlyWait = 1#1 → delayAt i s.upos = true) ∧ ShiftAt i s := by
  obtain ⟨hu, ⟨-, hrest⟩ | ⟨hended, -⟩⟩ := hp
  · exact ⟨hu, hrest⟩
  · rw [hdue] at hended
    cases hended

/-- A step of micro-op `i` extends what `i` has emitted so far by the events it adds to the trace, and leaves `i` at one of
its actions or ended. -/
theorem uopSoFar_exec (hi : compound i = true) (hp : Performing i s) (hdue : s.due = .uop) (he : exec i s = .next r) :
    (∃ es, r.trace = s.trace ++ es ∧ uopSoFar r = uopSoFar s ++ es) ∧ (r.due = .uop ∨ r.due = .ended) := by
  obtain ⟨hu, hlt, hdw, hshift⟩ := hp.running hdue
  have hacted := exec_acted hi he
  cases exec_microOpStep hi hshift he with
  | @acts e _ h =>
    have hw : s.dlyWait = 0#1 := (bit_cases s.dlyWait).resolve_right fun h1 => Bool.false_ne_true (h.delay.symm.trans (hdw h1))
    exact ⟨⟨[e], h.trace, uopSoFar_of_actsAt hi hu hdue hlt hw hacted h⟩, .inl (h.due.trans hdue)⟩
  | delayBegins hd hw => exact ⟨⟨[.delay], rfl, uopSoFar_beginDelay hi hu hdue hlt hd hw⟩, .inl hdue⟩
  | waits => exact ⟨⟨[], (List.append_nil _).symm, (List.append_nil _).symm⟩, .inl hdue⟩
  | delayEnds h =>
    have hpos := h.position
    refine ⟨⟨[], ?_, ?_⟩, ?_⟩
    · rw [h.trace, List.append_nil]
    · rw [uopSoFar_of_delayEndsAt hi hu hdue hacted h, List.append_nil]
    · split at hpos
      · exact .inr hpos.2
      · exact .inl (hpos.2.trans hdue)

end Sys2Proof.Safety
end

section
/-! A step of a command extends what the command has emitted so far by exactly the events it adds to the trace
(44_transactions R161 to R164). -/

namespace Sys2Proof.Safety

open Sys2Proof.Machine

variable {s r : State} {i : Instr}

/-! ### What a command has emitted, by phase and micro-op -/

theorem commandTraces_of_idle (hp : s.phase = 0#3) : commandTraces s = [[]] := by
  simp [commandTraces, hp]

theorem commandTraces_of_data (hp : s.phase = 3#3) :
    commandTraces s = [headTrace s 0#1 ++ payloadSoFar s s.idx ++ byteSoFar s] := by
  simp [commandTraces, hp]

theorem commandTraces_of_success (hp : s.phase = 4#3) (hres : s.result = .success) :
    commandTraces s = [headTrace s 0#1 ++ payloadSoFar s s.len ++ uopSoFar s] := by
  simp [commandTraces, hp, hres]

theorem commandTraces_of_failure (hp : s.phase = 4#3) (hres : s.result = .ackFailure) :
    commandTraces s = [headTrace s 1#1 ++ uopSoFar s] ++
      (if s.rw = 0#1 ∧ s.idx < s.len then
        [headTrace s 0#1 ++ payloadSoFar s s.idx ++
          writeByteTrace s.sclRef s.sdaRef s.byteAddr (readByte s.mem s.byteAddr) 1#1 ++ uopSoFar s]
      else []) := by
  simp [commandTraces, hp, hres]

theorem byteSoFar_of_memRead (hd : s.due = .memRead) : byteSoFar s = [] := by simp [byteSoFar, hd]

theorem byteSoFar_of_memWrite (hd : s.due = .memWrite) : byteSoFar s = rxTrace s.sclRef s.sdaRef s.sr := by
  simp [byteSoFar, hd]

/-- What the current payload byte had emitted before its current micro-op `i`. -/
def beforeUop (i : Instr) (s : State) : List Event :=
  let v := readByte s.mem s.byteAddr
  match i with
  | .txByte _ => [.memRead s.byteAddr v]
  | .checkAck => .memRead s.byteAddr v :: txTrace s.sclRef s.sdaRef v
  | .rxByte => []
  | _ => rxTrace s.sclRef s.sdaRef v ++ [.memWrite s.byteAddr v]

theorem beforeUop_of_answer (hi : i = .sendNack ∨ i = .sendAck) (s : State) :
    beforeUop i s = rxTrace s.sclRef s.sdaRef (readByte s.mem s.byteAddr) ++
      [.memWrite s.byteAddr (readByte s.mem s.byteAddr)] := by
  rcases hi with rfl | rfl <;> rfl

theorem byteSoFar_of_uop (hi : compound i = true) (hu : s.uopWord = encode i)
    (hd : s.due ≠ .memRead ∧ s.due ≠ .memWrite) : byteSoFar s = beforeUop i s ++ uopSoFar s := by
  obtain ⟨hread, hwrite⟩ := hd
  unfold byteSoFar beforeUop
  rw [hu, decodeUop_encode hi]
  cases i <;> simp

/-- What the current command had emitted before its current micro-op `i`, up to the question `commandTraces` leaves open. -/
def beforeUopTraces (i : Instr) (s : State) : List (List Event) :=
  if s.phase = 1#3 then [[]]
  else if s.phase = 2#3 then
    match i with
    | .checkAck => [startTrace s.sclRef s.sdaRef ++ txTrace s.sclRef s.sdaRef s.addrByte]
    | _ => [startTrace s.sclRef s.sdaRef]
  else if s.phase = 3#3 then [headTrace s 0#1 ++ payloadSoFar s s.idx ++ beforeUop i s]
  else
    match s.result with
    | .success => [headTrace s 0#1 ++ payloadSoFar s s.len]
    | .ackFailure =>
      [headTrace s 1#1] ++
        (if s.rw = 0#1 ∧ s.idx < s.len then
          [headTrace s 0#1 ++ payloadSoFar s s.idx ++
            writeByteTrace s.sclRef s.sdaRef s.byteAddr (readByte s.mem s.byteAddr) 1#1]
        else [])

theorem beforeUopTraces_of_data (hp : s.phase = 3#3) :
    beforeUopTraces i s = [headTrace s 0#1 ++ payloadSoFar s s.idx ++ beforeUop i s] := by
  simp [beforeUopTraces, hp]

/-- The phases of a running command (10_state R27). -/
def Running (s : State) : Prop := s.phase = 1#3 ∨ s.phase = 2#3 ∨ s.phase = 3#3 ∨ s.phase = 4#3

theorem commandTraces_eq_map (hi : compound i = true) (hu : s.uopWord = encode i) (hp : Running s)
    (hd : s.due ≠ .memRead ∧ s.due ≠ .memWrite) :
    commandTraces s = (beforeUopTraces i s).map (· ++ uopSoFar s) := by
  rcases hp with hp | hp | hp | hp
  · simp [commandTraces, beforeUopTraces, hp]
  · simp only [commandTraces, beforeUopTraces, hp, hu, decodeUop_encode hi]
    cases i <;> rfl
  · rw [commandTraces_of_data hp, byteSoFar_of_uop hi hu hd]
    simp [beforeUopTraces, hp]
  · cases hres : s.result with
    | success => simp [commandTraces_of_success hp hres, beforeUopTraces, hp, hres]
    | ackFailure =>
      rw [commandTraces_of_failure hp hres]
      by_cases hc : s.rw = 0#1 ∧ s.idx < s.len <;> simp [beforeUopTraces, hp, hres, hc]

/-- A micro-op just begun has emitted nothing. -/
theorem commandTraces_of_begun (hi : compound i = true) (hu : s.uopWord = encode i) (hp : Running s)
    (hd : s.due = .uop) (hk : s.upos = 0) (hw : s.dlyWait = 0#1) : commandTraces s = beforeUopTraces i s := by
  rw [commandTraces_eq_map hi hu hp (by simp [hd]), uopSoFar_of_running hd, hk, hw]
  simp

theorem mem_commandTraces_of_begun {l : List Event} (hi : compound i = true) (hu : s.uopWord = encode i)
    (hp : Running s) (hd : s.due = .uop) (hk : s.upos = 0) (hw : s.dlyWait = 0#1) (hl : l ∈ beforeUopTraces i s) :
    l ∈ commandTraces s := by
  rwa [commandTraces_of_begun hi hu hp hd hk hw]

theorem mem_commandTraces_of_begun_data {l : List Event} (hi : compound i = true) (hu : s.uopWord = encode i)
    (hp : s.phase = 3#3) (hd : s.due = .uop) (hk : s.upos = 0) (hw : s.dlyWait = 0#1)
    (hl : l = headTrace s 0#1 ++ payloadSoFar s s.idx ++ beforeUop i s) : l ∈ commandTraces s := by
  rw [commandTraces_of_begun hi hu (.inr (.inr (.inl hp))) hd hk hw, beforeUopTraces_of_data hp]
  exact List.mem_singleton.mpr hl

/-- A micro-op that has ended has emitted its whole step list. -/
theorem commandTraces_of_ended (hi : compound i = true) (hu : s.uopWord = encode i) (hp : Running s)
    (hd : s.due = .ended ∨ s.due = .complete) :
    commandTraces s = (beforeUopTraces i s).map (· ++ stepList s.sclRef s.sdaRef i s.sr s.ackbit) := by
  have hover : s.due ≠ .uop := by rcases hd with hd | hd <;> simp [hd]
  rw [commandTraces_eq_map hi hu hp (by rcases hd with hd | hd <;> simp [hd]), uopSoFar_of_over hover,
    uopTrace_of_over hi hu hover]

/-! ### The payload bytes done -/

theorem bytesFrom_succ (m : List Host.Cell) (x n : Nat) :
    bytesFrom m x (n + 1) = bytesFrom m x n ++ [readByte m (x + n)] := by
  simp [bytesFrom, List.range_succ]

@[simp] theorem bytesFrom_length (m : List Host.Cell) (x n : Nat) : (bytesFrom m x n).length = n := by
  simp [bytesFrom]

theorem writePayloadTrace_concat (c d x : Nat) (vs : List Byte) (v : Byte) :
    writePayloadTrace c d x (vs ++ [v]) =
      writePayloadTrace c d x vs ++ writeByteTrace c d (x + vs.length) v 0#1 := by
  induction vs generalizing x with
  | nil => simp [writePayloadTrace]
  | cons u vs ih =>
    simp only [List.cons_append, writePayloadTrace, ih, List.append_assoc, List.length_cons]
    rw [Nat.add_right_comm, Nat.add_assoc]

theorem payloadSoFar_zero (s : State) : payloadSoFar s 0 = [] := by
  unfold payloadSoFar
  split <;> rfl

theorem payloadSoFar_of_write (hrw : s.rw = 0#1) (n : Nat) :
    payloadSoFar s n = writePayloadTrace s.sclRef s.sdaRef s.buf (bytesFrom s.mem s.buf n) := if_pos hrw

theorem payloadSoFar_of_read (hrw : s.rw = 1#1) (n : Nat) :
    payloadSoFar s n = readSoFar s.sclRef s.sdaRef s.buf s.len s.mem n :=
  if_neg (by rw [hrw]; decide)

/-- One more acknowledged byte of a WRITE. -/
theorem payloadSoFar_succ_of_write (hrw : s.rw = 0#1) (n : Nat) :
    payloadSoFar s (n + 1) =
      payloadSoFar s n ++ writeByteTrace s.sclRef s.sdaRef (s.buf + n) (readByte s.mem (s.buf + n)) 0#1 := by
  rw [payloadSoFar_of_write hrw, payloadSoFar_of_write hrw, bytesFrom_succ, writePayloadTrace_concat, bytesFrom_length]

/-- One more received byte of a READ. -/
theorem payloadSoFar_succ_of_read (hrw : s.rw = 1#1) (n : Nat) :
    payloadSoFar s (n + 1) = payloadSoFar s n ++
      readByteTrace s.sclRef s.sdaRef (s.buf + n) (readByte s.mem (s.buf + n)) (n + 1 == s.len) := by
  simp only [payloadSoFar_of_read hrw, readSoFar, List.range_succ, List.flatMap_append, List.flatMap_singleton]

/-- The payload trace depends only on the bytes it names. -/
theorem payloadSoFar_withMem {m : List Host.Cell} {n : Nat}
    (hm : ∀ k < n, readByte m (s.buf + k) = readByte s.mem (s.buf + k)) :
    payloadSoFar { s with mem := m } n = payloadSoFar s n := by
  have hbytes : bytesFrom m s.buf n = bytesFrom s.mem s.buf n :=
    List.map_congr_left fun k hk => hm k (List.mem_range.mp hk)
  have hread : readSoFar s.sclRef s.sdaRef s.buf s.len m n = readSoFar s.sclRef s.sdaRef s.buf s.len s.mem n := by
    unfold readSoFar List.flatMap
    refine congrArg List.flatten (List.map_congr_left fun k hk => ?_)
    rw [hm k (List.mem_range.mp hk)]
  unfold payloadSoFar
  rw [← hbytes, ← hread]
  rfl

theorem byteSoFar_withMem {m : List Host.Cell} (hm : readByte m s.byteAddr = readByte s.mem s.byteAddr) :
    byteSoFar { s with mem := m } = byteSoFar s := by
  have huop : uopSoFar { s with mem := m } = uopSoFar s := rfl
  have hword : State.uopWord { s with mem := m } = s.uopWord := rfl
  have haddr : State.byteAddr { s with mem := m } = s.byteAddr := rfl
  simp only [byteSoFar, huop, hword, haddr, hm]

/-- What a command has emitted names only bytes of its buffer range, so it stays when no such byte changes. -/
theorem commandTraces_withMem {m : List Host.Cell}
    (hm : ∀ k < s.len, readByte m (s.buf + k) = readByte s.mem (s.buf + k)) (hidx : s.phase = 3#3 → s.idx < s.len) :
    commandTraces { s with mem := m } = commandTraces s := by
  by_cases h3 : s.phase = 3#3
  · have hin := hidx h3
    rw [commandTraces_of_data h3, commandTraces_of_data (s := { s with mem := m }) h3,
      payloadSoFar_withMem fun k hk => hm k (hk.trans hin), byteSoFar_withMem (hm _ hin)]
    rfl
  by_cases h4 : s.phase = 4#3
  · obtain hres | hres : s.result = .success ∨ s.result = .ackFailure := by cases s.result <;> simp
    · rw [commandTraces_of_success h4 hres, commandTraces_of_success (s := { s with mem := m }) h4 hres,
        payloadSoFar_withMem hm]
      rfl
    · rw [commandTraces_of_failure h4 hres, commandTraces_of_failure (s := { s with mem := m }) h4 hres]
      by_cases hc : s.rw = 0#1 ∧ s.idx < s.len
      · rw [if_pos hc, if_pos (show State.rw { s with mem := m } = 0#1 ∧ s.idx < s.len from hc),
          payloadSoFar_withMem fun k hk => hm k (hk.trans hc.2),
          show readByte m (State.byteAddr { s with mem := m }) = readByte s.mem s.byteAddr from hm _ hc.2]
        rfl
      · rw [if_neg hc, if_neg (show ¬ (State.rw { s with mem := m } = 0#1 ∧ s.idx < s.len) from hc)]
        rfl
  · simp only [commandTraces, if_neg h3, if_neg h4]
    rfl

end Sys2Proof.Safety
end

section
/-! Which micro-op runs where, and that every step of a command extends what the command has emitted so far by exactly the
events it adds to the trace (44_transactions R160 to R164). -/

namespace Sys2Proof.Safety

open Sys2Proof.Machine

variable {s r t : State} {i : Instr}

/-! ### The micro-op of a running command -/

/-- The micro-ops the sequencer performs, each with the phase and the direction it belongs to
(44_transactions R161 to R163). -/
inductive CurrentUop (s : State) : Instr → Prop where
  | start (hp : s.phase = 1#3) : CurrentUop s .start
  | address (hp : s.phase = 2#3) : CurrentUop s (.txByte s.addrByte)
  | checkAddress (hp : s.phase = 2#3) : CurrentUop s .checkAck
  | transmit (hp : s.phase = 3#3) (hrw : s.rw = 0#1) : CurrentUop s (.txByte (readByte s.mem s.byteAddr))
  | checkByte (hp : s.phase = 3#3) (hrw : s.rw = 0#1) : CurrentUop s .checkAck
  | receive (hp : s.phase = 3#3) (hrw : s.rw = 1#1) : CurrentUop s .rxByte
  | ack (hp : s.phase = 3#3) (hrw : s.rw = 1#1) (hlast : s.idx + 1 < s.len) : CurrentUop s .sendAck
  | nack (hp : s.phase = 3#3) (hrw : s.rw = 1#1) (hlast : s.idx + 1 = s.len) : CurrentUop s .sendNack
  | stop (hp : s.phase = 4#3) : CurrentUop s .stop

theorem CurrentUop.compound (h : CurrentUop s i) : compound i = true := by cases h <;> rfl

theorem CurrentUop.running (h : CurrentUop s i) : Running s := by
  cases h with
  | start hp => exact .inl hp
  | address hp | checkAddress hp => exact .inr (.inl hp)
  | transmit hp | checkByte hp | receive hp | ack hp | nack hp => exact .inr (.inr (.inl hp))
  | stop hp => exact .inr (.inr (.inr hp))

/-- While a command runs it is an admitted one, and in phase DATA a payload byte is left. -/
theorem ControlSound.admitted (h : ControlSound s) (hp : s.phase ≠ 0#3) :
    Admitted s ∧ (s.phase = 3#3 → s.idx < s.len) := by
  rcases h with ⟨h0, -⟩ | ⟨ha, ⟨hp', -⟩ | ⟨hp', -⟩ | ⟨-, hin, -⟩ | ⟨hp', -⟩⟩
  · exact absurd h0 hp
  · exact ⟨ha, fun h3 => by rw [hp'] at h3; cases h3⟩
  · exact ⟨ha, fun h3 => by rw [hp'] at h3; cases h3⟩
  · exact ⟨ha, fun _ => hin⟩
  · exact ⟨ha, fun h3 => by rw [hp'] at h3; cases h3⟩

/-- In phase DATA, unless a buffer access is due, the block performs one of the five micro-ops of the payload. -/
theorem currentUop_of_data (hp : s.phase = 3#3) (hw : s.rw = 0#1 → WriteControl s) (hr : s.rw = 1#1 → ReadControl s)
    (hd : s.due ≠ .memRead ∧ s.due ≠ .memWrite) : ∃ i, CurrentUop s i ∧ Performing i s := by
  obtain ⟨hread, hwrite⟩ := hd
  rcases bit_cases s.rw with hrw | hrw
  · rcases hw hrw with ⟨⟨h, -⟩ | h, -⟩ | h
    · exact absurd h hread
    · exact ⟨_, .transmit hp hrw, h⟩
    · exact ⟨_, .checkByte hp hrw, h⟩
  · rcases hr hrw with ⟨-, h | ⟨h, -⟩ | ⟨h, hlast⟩ | ⟨h, hlast⟩⟩
    · exact ⟨_, .receive hp hrw, h⟩
    · exact absurd h hwrite
    · exact ⟨_, .ack hp hrw hlast, h⟩
    · exact ⟨_, .nack hp hrw hlast, h⟩

/-- A running command performs a micro-op unless a buffer access or `Complete` is due. -/
theorem ControlSound.currentUop (h : ControlSound s) (hp : s.phase ≠ 0#3) (hd : s.due = .uop ∨ s.due = .ended) :
    ∃ i, CurrentUop s i ∧ Performing i s := by
  rcases h with ⟨h0, -⟩ | ⟨-, ⟨hp', hs⟩ | ⟨hp', ha | ha⟩ | ⟨hp', -, hw, hr⟩ | ⟨hp', hs | ⟨-, hc, -⟩, -⟩⟩
  · exact absurd h0 hp
  · exact ⟨_, .start hp', hs⟩
  · exact ⟨_, .address hp', ha⟩
  · exact ⟨_, .checkAddress hp', ha⟩
  · exact currentUop_of_data hp' hw hr (by rcases hd with hd | hd <;> simp [hd])
  · exact ⟨_, .stop hp', hs⟩
  · rw [hc] at hd
    simp at hd

/-- A micro-op that has ended is in no delay. -/
theorem Performing.ended (h : Performing i s) (hd : s.due = .ended) : s.uopWord = encode i ∧ s.dlyWait = 0#1 := by
  obtain ⟨hu, ⟨hd', -⟩ | ⟨-, -, hw⟩⟩ := h
  · rw [hd] at hd'
    cases hd'
  · exact ⟨hu, hw⟩

/-! ### How a step extends what the command has emitted -/

/-- `r` adds events to the trace of `s`, and the same events to what the command of `s` has emitted. -/
def Extends (s r : State) : Prop :=
  ∃ es, r.trace = s.trace ++ es ∧ ∀ l ∈ commandTraces s, l ++ es ∈ commandTraces r

theorem Extends.of_singleton {l es : List Event} (ht : r.trace = s.trace ++ es) (hs : commandTraces s = [l])
    (hr : l ++ es ∈ commandTraces r) : Extends s r :=
  ⟨es, ht, fun l' hl' => by rw [hs] at hl'; rwa [List.mem_singleton.mp hl']⟩

/-- A step that emits nothing. -/
theorem Extends.of_silent {l : List Event} (ht : r.trace = s.trace) (hs : commandTraces s = [l])
    (hr : l ∈ commandTraces r) : Extends s r :=
  .of_singleton (es := []) (by rw [ht, List.append_nil]) hs (by rwa [List.append_nil])

/-- After the step the command still runs, on the bytes of its own buffer range. -/
def InRange (r : State) : Prop := r.busy = 1#1 ∧ (r.phase = 3#3 → r.idx < r.len)

theorem busy_of_status (h : s.status = 0x01#8) : s.busy = 1#1 := by
  rw [State.busy, h]
  rfl

/-- A step of a micro-op. -/
theorem extends_of_exec (hc : CurrentUop s i) (hp : Performing i s) (hd : s.due = .uop) (he : exec i s = .next r) :
    Extends s r := by
  have hi := hc.compound
  obtain ⟨⟨es, htrace, hsofar⟩, hdr⟩ := uopSoFar_exec hi hp hd he
  have hu := (hp.running hd).1
  have hacted := exec_acted hi he
  have hrun : Running r := by simpa only [Running, hacted.phase_eq] using hc.running
  have hbefore : beforeUopTraces i r = beforeUopTraces i s := by
    obtain ⟨a, ha, hr⟩ := hacted
    rw [hr]
    cases ha <;> rfl
  refine ⟨es, htrace, fun l hl => ?_⟩
  rw [commandTraces_eq_map hi hu hc.running (by simp [hd])] at hl
  rw [commandTraces_eq_map hi (hacted.uopWord_eq.trans hu) hrun (by rcases hdr with h | h <;> simp [h]), hbefore, hsofar]
  obtain ⟨p, hp, rfl⟩ := List.mem_map.mp hl
  exact List.mem_map.mpr ⟨p, hp, (List.append_assoc _ _ _).symm⟩

/-! ### The choices of the sequencer -/

@[simp] theorem enterStop_uopWord (res : Result) (s : State) : (enterStop res s).uopWord = encode .stop :=
  issue_uopWord .stop s

@[simp] theorem enterAddress_uopWord (s : State) : (enterAddress s).uopWord = encode (.txByte s.addrByte) :=
  issue_uopWord (.txByte s.addrByte) s

/-- The loop test goes on from the payload bytes done. -/
theorem mem_commandTraces_payloadLoop {n : Nat} (hw : s.dlyWait = 0#1) (hn : n ≤ s.len) :
    headTrace s 0#1 ++ payloadSoFar s n ∈ commandTraces (payloadLoop n s) := by
  rcases payloadLoop_cases n s with ⟨hle, h⟩ | ⟨-, hrw, h⟩ | ⟨-, hrw, h⟩ <;> rw [h]
  · obtain rfl : n = s.len := by omega
    exact mem_commandTraces_of_begun (i := .stop) rfl (enterStop_uopWord _ _) (.inr (.inr (.inr rfl))) rfl rfl hw
      (List.mem_singleton.mpr rfl)
  · rw [commandTraces_of_data rfl, byteSoFar_of_memRead rfl, List.append_nil]
    exact List.mem_singleton.mpr rfl
  · exact mem_commandTraces_of_begun_data (i := .rxByte) rfl (issue_uopWord .rxByte { s with idx := n }) rfl rfl rfl hw
      (List.append_nil _).symm

theorem payloadLoop_inRange {n : Nat} (hb : s.status = 0x01#8) : InRange (payloadLoop n s) := by
  refine ⟨busy_of_status (by rw [payloadLoop_status, hb]), fun hp => ?_⟩
  rcases payloadLoop_cases n s with ⟨-, h⟩ | ⟨hlt, -, h⟩ | ⟨hlt, -, h⟩ <;> rw [h] at hp ⊢
  · cases hp
  · exact hlt
  · exact hlt

/-- The abort goes on from the address, or from the payload byte, that was not acknowledged. -/
theorem commandTraces_abort (hw : s.dlyWait = 0#1) :
    commandTraces (enterStop .ackFailure s) = [headTrace s 1#1] ++
      (if s.rw = 0#1 ∧ s.idx < s.len then
        [headTrace s 0#1 ++ payloadSoFar s s.idx ++
          writeByteTrace s.sclRef s.sdaRef s.byteAddr (readByte s.mem s.byteAddr) 1#1]
      else []) :=
  commandTraces_of_begun (i := .stop) rfl (enterStop_uopWord _ _) (.inr (.inr (.inr rfl))) rfl rfl hw

/-- A NACK goes to the abort, an ACK to the loop test (43_ack R143, 60_exceptions R192). -/
theorem afterCheck_cases (k : Nat) (s : State) :
    (s.ackbit = 1#1 ∧ afterCheck k s = enterStop .ackFailure s) ∨
      (s.ackbit = 0#1 ∧ afterCheck k s = payloadLoop k s) := by
  unfold afterCheck State.nacked
  rcases bit_cases s.ackbit with h | h <;> simp [h]

/-- START has ended: the address byte is next. -/
theorem extends_enterAddress (hp : s.phase = 1#3) (h : Performing .start s) (hd : s.due = .ended) :
    Extends s (enterAddress s.noAction) := by
  obtain ⟨hu, hw⟩ := h.ended hd
  have hs : commandTraces s = [startTrace s.sclRef s.sdaRef] := by
    rw [commandTraces_of_ended rfl hu (.inl hp) (.inl hd)]
    simp [beforeUopTraces, hp, stepList]
  refine .of_silent rfl hs ?_
  exact mem_commandTraces_of_begun (i := .txByte s.addrByte) rfl (enterAddress_uopWord _) (.inr (.inl rfl)) rfl rfl hw
    (List.mem_singleton.mpr rfl)

/-- The address byte has ended: its check is next. -/
theorem extends_checkAddress (hp : s.phase = 2#3) (h : Performing (.txByte s.addrByte) s) (hd : s.due = .ended) :
    Extends s (s.noAction.issue .checkAck) := by
  obtain ⟨hu, hw⟩ := h.ended hd
  have hs : commandTraces s = [startTrace s.sclRef s.sdaRef ++ txTrace s.sclRef s.sdaRef s.addrByte] := by
    rw [commandTraces_of_ended rfl hu (.inr (.inl hp)) (.inl hd)]
    simp [beforeUopTraces, hp, stepList]
  refine .of_silent rfl hs ?_
  refine mem_commandTraces_of_begun (i := .checkAck) rfl (issue_uopWord _ _) (.inr (.inl hp)) rfl rfl hw ?_
  simp [beforeUopTraces, hp, State.addrByte]

/-- The check of the address has ended: the abort, or the payload. -/
theorem extends_addressChecked (hp : s.phase = 2#3) (h : Performing .checkAck s) (hd : s.due = .ended) :
    Extends s (afterCheck 0 s.noAction) := by
  obtain ⟨hu, hw⟩ := h.ended hd
  have hs : commandTraces s = [headTrace s s.ackbit] := by
    rw [commandTraces_of_ended rfl hu (.inr (.inl hp)) (.inl hd)]
    simp [beforeUopTraces, hp, stepList, headTrace, addressTrace]
  refine .of_silent (afterCheck_trace _ _) hs ?_
  rcases afterCheck_cases 0 s.noAction with ⟨hack, hr⟩ | ⟨hack, hr⟩ <;> rw [hr, show s.ackbit = _ from hack]
  · rw [commandTraces_abort (s := s.noAction) hw]
    exact List.mem_cons_self
  · have := mem_commandTraces_payloadLoop (s := s.noAction) hw (Nat.zero_le _)
    rwa [payloadSoFar_zero, List.append_nil] at this

/-- In phase DATA, what a command has emitted when a micro-op has ended. -/
theorem commandTraces_of_ended_data (hi : compound i = true) (hu : s.uopWord = encode i) (hp : s.phase = 3#3)
    (hd : s.due = .ended) :
    commandTraces s = [headTrace s 0#1 ++ payloadSoFar s s.idx ++
      (beforeUop i s ++ stepList s.sclRef s.sdaRef i s.sr s.ackbit)] := by
  rw [commandTraces_of_ended hi hu (.inr (.inr (.inl hp))) (.inl hd)]
  simp [beforeUopTraces, hp]

/-- A payload byte has been transmitted: its check is next. -/
theorem extends_checkByte (hp : s.phase = 3#3) (h : Performing (.txByte (readByte s.mem s.byteAddr)) s)
    (hd : s.due = .ended) : Extends s (s.noAction.issue .checkAck) := by
  obtain ⟨hu, hw⟩ := h.ended hd
  refine .of_silent rfl (commandTraces_of_ended_data rfl hu hp hd) ?_
  exact mem_commandTraces_of_begun_data (i := .checkAck) rfl (issue_uopWord _ _) hp rfl rfl hw rfl

/-- In phase DATA `IDX + 1` does not wrap, because `IDX < LEN` and `LEN` fits its width (10_state R28). -/
theorem nextIdx_eq (hf : FitsWidths s) (hin : s.idx < s.len) : nextIdx s = s.idx + 1 := by
  obtain ⟨-, hlen, -⟩ := hf
  exact Nat.mod_eq_of_lt (by omega)

/-- The check of a payload byte has ended: the abort, or the loop test behind the byte. -/
theorem extends_byteChecked (hf : FitsWidths s) (hin : s.idx < s.len) (hp : s.phase = 3#3) (hrw : s.rw = 0#1)
    (h : Performing .checkAck s) (hd : s.due = .ended) : Extends s (afterCheck (nextIdx s) s.noAction) := by
  obtain ⟨hu, hw⟩ := h.ended hd
  have hs : commandTraces s = [headTrace s 0#1 ++ payloadSoFar s s.idx ++
      writeByteTrace s.sclRef s.sdaRef s.byteAddr (readByte s.mem s.byteAddr) s.ackbit] :=
    commandTraces_of_ended_data rfl hu hp hd
  refine .of_silent (afterCheck_trace _ _) hs ?_
  rw [nextIdx_eq hf hin]
  rcases afterCheck_cases (s.idx + 1) s.noAction with ⟨hack, hr⟩ | ⟨hack, hr⟩ <;> rw [hr, show s.ackbit = _ from hack]
  · have hc : s.noAction.rw = 0#1 ∧ s.noAction.idx < s.noAction.len := ⟨hrw, hin⟩
    rw [commandTraces_abort (s := s.noAction) hw, if_pos hc]
    exact List.mem_cons_of_mem _ (List.mem_singleton.mpr rfl)
  · have hmem : headTrace s 0#1 ++ payloadSoFar s (s.idx + 1) ∈ commandTraces (payloadLoop (s.idx + 1) s.noAction) :=
      mem_commandTraces_payloadLoop (s := s.noAction) hw hin
    rw [payloadSoFar_succ_of_write hrw, ← List.append_assoc] at hmem
    exact hmem

/-- A byte has been received: its write is next. -/
theorem extends_received (hp : s.phase = 3#3) (h : Performing .rxByte s) (hd : s.due = .ended) :
    Extends s { s.noAction with due := .memWrite } := by
  obtain ⟨hu, -⟩ := h.ended hd
  refine .of_silent rfl (commandTraces_of_ended_data rfl hu hp hd) ?_
  rw [commandTraces_of_data (s := { s.noAction with due := .memWrite }) hp, byteSoFar_of_memWrite rfl]
  exact List.mem_singleton.mpr rfl

/-- The answer to a received byte has ended: the loop test behind the byte. -/
theorem extends_answered (hf : FitsWidths s) (hin : s.idx < s.len) (hp : s.phase = 3#3) (hrw : s.rw = 1#1)
    (hi : i = .sendAck ∧ s.idx + 1 < s.len ∨ i = .sendNack ∧ s.idx + 1 = s.len) (h : Performing i s)
    (hd : s.due = .ended) : Extends s (payloadLoop (nextIdx s) s.noAction) := by
  obtain ⟨hu, hw⟩ := h.ended hd
  have hcomp : compound i = true := by rcases hi with ⟨rfl, -⟩ | ⟨rfl, -⟩ <;> rfl
  have hbyte : beforeUop i s ++ stepList s.sclRef s.sdaRef i s.sr s.ackbit =
      readByteTrace s.sclRef s.sdaRef s.byteAddr (readByte s.mem s.byteAddr) (s.idx + 1 == s.len) := by
    rcases hi with ⟨rfl, hlast⟩ | ⟨rfl, hlast⟩
    · rw [show (s.idx + 1 == s.len) = false by simp; omega]
      simp [beforeUop, stepList, readByteTrace]
    · rw [show (s.idx + 1 == s.len) = true by simp [hlast]]
      simp [beforeUop, stepList, readByteTrace]
  refine .of_silent (payloadLoop_trace _ _) (commandTraces_of_ended_data hcomp hu hp hd) ?_
  have hmem : headTrace s 0#1 ++ payloadSoFar s (s.idx + 1) ∈ commandTraces (payloadLoop (s.idx + 1) s.noAction) :=
    mem_commandTraces_payloadLoop (s := s.noAction) hw hin
  rw [nextIdx_eq hf hin, hbyte]
  rw [payloadSoFar_succ_of_read hrw, ← List.append_assoc] at hmem
  exact hmem

/-- STOP has ended: `Complete` is next. -/
theorem extends_stopped (hp : s.phase = 4#3) (h : Performing .stop s) (hd : s.due = .ended) :
    Extends s { s.noAction with due := .complete } := by
  obtain ⟨hu, -⟩ := h.ended hd
  refine ⟨[], (List.append_nil _).symm, fun l hl => ?_⟩
  rw [List.append_nil, commandTraces_of_ended (s := { s.noAction with due := .complete }) (i := .stop) rfl hu
    (.inr (.inr (.inr hp))) (.inr rfl)]
  rw [commandTraces_of_ended rfl hu (.inr (.inr (.inr hp))) (.inl hd)] at hl
  exact hl

/-- What the sequencer chooses extends what the command has emitted. -/
theorem extends_of_choice (hf : FitsWidths s) (hin : s.phase = 3#3 → s.idx < s.len) (hc : CurrentUop s i)
    (h : Performing i s) (hd : s.due = .ended) (hr : Choice s r) : Extends s r := by
  have hi {j : Instr} (hu : decodeUop s.uopWord = .ok j) : i = j := by
    rw [(h.ended hd).1, decodeUop_encode hc.compound] at hu
    exact Except.ok.inj hu
  cases hr with
  | address hp hu =>
    obtain rfl := hi hu
    cases hc with
    | start hp => exact extends_enterAddress hp h hd
  | checkAddress hp hu =>
    obtain rfl := hi hu
    cases hc with
    | address hp => exact extends_checkAddress hp h hd
    | transmit hp' => simp [phaseOf, hp'] at hp
  | addressChecked hp hu =>
    obtain rfl := hi hu
    cases hc with
    | checkAddress hp => exact extends_addressChecked hp h hd
    | checkByte hp' => simp [phaseOf, hp'] at hp
  | checkByte hp hu =>
    obtain rfl := hi hu
    cases hc with
    | address hp' => simp [phaseOf, hp'] at hp
    | transmit hp => exact extends_checkByte hp h hd
  | byteChecked hp hu =>
    obtain rfl := hi hu
    cases hc with
    | checkAddress hp' => simp [phaseOf, hp'] at hp
    | checkByte hp hrw => exact extends_byteChecked hf (hin hp) hp hrw h hd
  | received hp hu =>
    obtain rfl := hi hu
    cases hc with
    | receive hp => exact extends_received hp h hd
  | acknowledged hp hu =>
    obtain rfl | rfl := hu.imp hi hi
    · cases hc with
      | ack hp hrw hlast => exact extends_answered hf (hin hp) hp hrw (.inl ⟨rfl, hlast⟩) h hd
    · cases hc with
      | nack hp hrw hlast => exact extends_answered hf (hin hp) hp hrw (.inr ⟨rfl, hlast⟩) h hd
  | stopped hp hu =>
    obtain rfl := hi hu
    cases hc with
    | stop hp => exact extends_stopped hp h hd

theorem afterCheck_inRange {n : Nat} (hb : s.status = 0x01#8) : InRange (afterCheck n s) := by
  rcases afterCheck_cases n s with ⟨-, h⟩ | ⟨-, h⟩ <;> rw [h]
  · exact ⟨busy_of_status hb, nofun⟩
  · exact payloadLoop_inRange hb

theorem inRange_of_choice (hb : s.status = 0x01#8) (hin : s.phase = 3#3 → s.idx < s.len) (hr : Choice s r) : InRange r := by
  cases hr with
  | address => exact ⟨busy_of_status hb, nofun⟩
  | checkAddress | checkByte | received | stopped => exact ⟨busy_of_status hb, hin⟩
  | addressChecked | byteChecked => exact afterCheck_inRange hb
  | acknowledged => exact payloadLoop_inRange hb

end Sys2Proof.Safety
end

section
/-! Every step of a command, from accept to `Complete`, and the environment's part of it (44_transactions R160 to R164,
20_memory R61, 60_exceptions R196). -/

namespace Sys2Proof.Machine

/-- When a step is about what `fetch` says (60_exceptions R196). -/
def FetchedWhen (s : State) : Fetched → Prop
  | .reset => s.now.rst = true
  | .wait => s.phase = 0#3
  | .illegal => s.phase = 0#3
  | .run i => (s.phase = 0#3 ∧ decodeCmd s.now.cmdWord = .ok i) ∨
      (s.phase ≠ 0#3 ∧ s.due = .uop ∧ decodeUop s.uopWord = .ok i)
  | .choose => s.phase ≠ 0#3 ∧ s.due = .ended
  | .memRead => s.phase ≠ 0#3 ∧ s.due = .memRead
  | .memWrite => s.phase ≠ 0#3 ∧ s.due = .memWrite
  | .complete => s.phase ≠ 0#3 ∧ s.due = .complete
  | .broken _ => s.phase ≠ 0#3

theorem phaseOf_eq_idle_iff (p : BitVec 3) : phaseOf p = some .idle ↔ p = 0#3 := by revert p; decide

theorem fetchedWhen_fetch (s : State) : FetchedWhen s (fetch s) := by
  have hidle := phaseOf_eq_idle_iff s.phase
  unfold fetch
  split
  · assumption
  split
  · rename_i hnone
    exact fun h0 => by rw [hidle.mpr h0] at hnone; cases hnone
  · rename_i hp
    split
    · split
      · exact .inl ⟨hidle.mp hp, ‹_›⟩
      · exact hidle.mp hp
    · exact hidle.mp hp
  · rename_i ph hne hp
    have h0 : s.phase ≠ 0#3 := fun h0 => hne (Option.some.inj (hp.symm.trans (hidle.mpr h0)))
    split
    · split
      · exact .inr ⟨h0, ‹_›, ‹_›⟩
      · exact h0
    all_goals exact ⟨h0, ‹_›⟩

theorem fetchedWhen_of_fetch {s : State} {f : Fetched} (h : fetch s = f) : FetchedWhen s f := h ▸ fetchedWhen_fetch s

end Sys2Proof.Machine

namespace Sys2Proof.Safety

open Sys2Proof.Machine

variable {s r t : State} {i : Instr}

/-! ### Accept -/

/-- The accepting step: START is at its first action and nothing was emitted (44_transactions R160). -/
theorem extends_latchCommand (h : ControlSound s) (hp : s.phase = 0#3) (o : Offer) : Extends s (latchCommand o s) := by
  have hw : s.dlyWait = 0#1 := by
    rcases h with ⟨-, -, hw⟩ | ⟨-, ⟨hp', -⟩ | ⟨hp', -⟩ | ⟨hp', -⟩ | ⟨hp', -⟩⟩
    · exact hw
    all_goals rw [hp] at hp'; cases hp'
  refine .of_silent rfl (commandTraces_of_idle hp) ?_
  exact mem_commandTraces_of_begun (i := .start) rfl (issue_uopWord .start s.noAction) (.inl rfl) rfl rfl hw
    (List.mem_singleton.mpr rfl)

/-! ### The buffer accesses -/

theorem Performing.due_cases (h : Performing i s) : s.due = .uop ∨ s.due = .ended := by
  obtain ⟨-, ⟨hd, -⟩ | ⟨hd, -⟩⟩ := h
  · exact .inl hd
  · exact .inr hd

/-- A buffer access is due only in phase DATA and outside a delay. -/
theorem ControlSound.access (h : ControlSound s) (hp : s.phase ≠ 0#3) (hd : s.due = .memRead ∨ s.due = .memWrite) :
    s.phase = 3#3 ∧ s.dlyWait = 0#1 := by
  have hno {j : Instr} (h : Performing j s) : False := by
    rcases h.due_cases with h | h <;> rw [h] at hd <;> simp at hd
  rcases h with ⟨h0, -⟩ | ⟨-, ⟨-, h⟩ | ⟨-, h | h⟩ | ⟨hp', -, hw, hr⟩ | ⟨-, h | ⟨-, h, -⟩, -⟩⟩
  · exact absurd h0 hp
  · exact (hno h).elim
  · exact (hno h).elim
  · exact (hno h).elim
  · refine ⟨hp', ?_⟩
    rcases bit_cases s.rw with hrw | hrw
    · rcases hw hrw with ⟨⟨-, h⟩ | h, -⟩ | h
      · exact h
      · exact (hno h).elim
      · exact (hno h).elim
    · rcases hr hrw with ⟨-, h | ⟨-, h⟩ | ⟨h, -⟩ | ⟨h, -⟩⟩
      · exact (hno h).elim
      · exact h
      · exact (hno h).elim
      · exact (hno h).elim
  · exact (hno h).elim
  · rw [h] at hd
    simp at hd

/-- The read of a payload byte emits its event and begins TX_BYTE of it (44_transactions R161). -/
theorem extends_readPayload (h : ControlSound s) (hp : s.phase ≠ 0#3) (hd : s.due = .memRead)
    (he : readPayload s = .next r) : Extends s r := by
  obtain ⟨hp3, hw⟩ := h.access hp (.inl hd)
  obtain ⟨-, rfl⟩ := readPayload_next he
  refine .of_singleton rfl (commandTraces_of_data hp3) ?_
  rw [byteSoFar_of_memRead hd, List.append_nil]
  exact mem_commandTraces_of_begun_data (i := .txByte (readByte s.mem s.byteAddr)) rfl (issue_uopWord _ s) hp3 rfl rfl hw
    rfl

/-- The write of a received byte emits its event and begins the answer to it; the bytes before it stay
(44_transactions R162, 20_memory R66). -/
theorem extends_writePayload (hm : Memory.wf s.mem = true) (h : ControlSound s) (hp : s.phase ≠ 0#3)
    (hd : s.due = .memWrite) (he : writePayload s = .next r) : Extends s r := by
  obtain ⟨hp3, hw⟩ := h.access hp (.inr hd)
  obtain ⟨-, rfl⟩ := writePayload_next he
  generalize hans : (if s.idx + 1 = s.len then Instr.sendNack else .sendAck) = j
  have hj : j = .sendNack ∨ j = .sendAck := by
    rw [← hans]
    split
    · exact .inl rfl
    · exact .inr rfl
  have hcomp : compound j = true := by rcases hj with rfl | rfl <;> rfl
  have hpayload : payloadSoFar { s with mem := writeByte s.mem s.byteAddr s.sr } s.idx = payloadSoFar s s.idx :=
    payloadSoFar_withMem fun k hk => by
      rw [readByte_writeByte hm, if_neg (by simp only [State.byteAddr]; omega)]
  have hbefore : beforeUop j { s with mem := writeByte s.mem s.byteAddr s.sr } =
      rxTrace s.sclRef s.sdaRef s.sr ++ [.memWrite s.byteAddr s.sr] := by
    have hbyte : readByte (writeByte s.mem s.byteAddr s.sr) s.byteAddr = s.sr := by
      rw [readByte_writeByte hm, if_pos rfl]
    rw [beforeUop_of_answer hj]
    exact congrArg (fun v => rxTrace s.sclRef s.sdaRef v ++ [.memWrite s.byteAddr v]) hbyte
  refine .of_singleton rfl (commandTraces_of_data hp3) ?_
  refine mem_commandTraces_of_begun_data hcomp (issue_uopWord j s) hp3 rfl rfl hw ?_
  rw [byteSoFar_of_memWrite hd, ← hpayload, List.append_assoc, ← hbefore]
  rfl

/-! ### The environment's part -/

/-- The environment changes no byte a running command names (20_memory R61). -/
theorem Extends.envStep (h : Extends s r) (hm : Memory.wf r.mem = true) (hin : InRange r) : Extends s (envStep r) := by
  obtain ⟨hbusy, hidx⟩ := hin
  obtain ⟨es, htrace, hmem⟩ := h
  have hsame : commandTraces (Machine.envStep r) = commandTraces r :=
    commandTraces_withMem (s := r) (m := (Machine.envStep r).mem)
      (fun k hk => envStep_readByte_of_busy hbusy hm (by omega) (by omega)) hidx
  exact ⟨es, htrace, by rwa [hsame]⟩

/-! ### A whole step -/

/-- A step of the core without reset, after which a command runs, extends what the command has emitted. -/
theorem extends_of_coreStep (hf : FitsWidths s) (h : ControlSound s) (hrst : s.now.rst = false) (hr : CoreStep s r)
    (hp : r.phase ≠ 0#3) : Extends s r ∧ InRange r := by
  cases hr with
  | reset hfetch =>
    have hrst' : s.now.rst = true := fetchedWhen_of_fetch hfetch
    rw [hrst] at hrst'
    cases hrst'
  | wait hfetch => exact absurd (fetchedWhen_of_fetch hfetch) hp
  | complete => exact absurd rfl hp
  | run i r hfetch he =>
    rcases fetchedWhen_of_fetch hfetch with ⟨h0, -⟩ | ⟨h0, hd, hword⟩
    · rcases exec_next he with ha | ⟨-, -, rfl⟩
      · exact absurd (ha.phase_eq.trans h0) hp
      · exact ⟨extends_latchCommand h h0 _, busy_of_status rfl, nofun⟩
    · obtain ⟨j, hc, hperf⟩ := h.currentUop h0 (.inl hd)
      rw [(hperf.running hd).1, decodeUop_encode hc.compound] at hword
      obtain rfl := Except.ok.inj hword
      obtain ⟨⟨hstatus, -⟩, hin⟩ := h.admitted h0
      obtain ⟨-, -, hlen, -, -, -, hst, hph, hidx, -⟩ := (exec_acted hc.compound he).sameControl
      refine ⟨extends_of_exec hc hperf hd he, busy_of_status (hst.trans hstatus), ?_⟩
      rw [hph, hidx, hlen]
      exact hin
  | choose r hfetch he =>
    obtain ⟨h0, hd⟩ := fetchedWhen_of_fetch hfetch
    obtain ⟨j, hc, hperf⟩ := h.currentUop h0 (.inr hd)
    obtain ⟨⟨hstatus, -⟩, hin⟩ := h.admitted h0
    have hchoice := sequence_next he
    exact ⟨extends_of_choice hf hin hc hperf hd hchoice, inRange_of_choice hstatus hin hchoice⟩
  | memRead r hfetch he =>
    obtain ⟨h0, hd⟩ := fetchedWhen_of_fetch hfetch
    obtain ⟨⟨hstatus, -⟩, hin⟩ := h.admitted h0
    refine ⟨extends_readPayload h h0 hd he, ?_⟩
    obtain ⟨-, rfl⟩ := readPayload_next he
    exact ⟨busy_of_status hstatus, hin⟩
  | memWrite r hfetch he =>
    obtain ⟨h0, hd⟩ := fetchedWhen_of_fetch hfetch
    obtain ⟨⟨hstatus, -⟩, hin⟩ := h.admitted h0
    obtain ⟨-, -, -, -, -, -, -, -, -, hm, -⟩ := hf
    refine ⟨extends_writePayload hm h h0 hd he, ?_⟩
    obtain ⟨-, rfl⟩ := writePayload_next he
    exact ⟨busy_of_status hstatus, hin⟩

theorem FitsWidths.mem_wf (h : FitsWidths s) : Memory.wf s.mem = true := by
  obtain ⟨-, -, -, -, -, -, -, -, -, hm, -⟩ := h
  exact hm

/-- Every step without reset, after which a command runs, extends what the command has emitted by exactly the events it
adds to the trace. -/
theorem extends_of_step (hs : Sound s) (hrst : s.now.rst = false) (hst : step s = .next t) (hp : t.phase ≠ 0#3) :
    Extends s t := by
  obtain ⟨hf, hc, -⟩ := hs
  obtain ⟨r, hr, rfl⟩ := step_next hst
  obtain ⟨hext, hin⟩ := extends_of_coreStep hf hc hrst hr hp
  exact hext.envStep (hf.coreStep hr).mem_wf hin

/-- A step with reset leaves the block in IDLE (70_reset_and_hazards R210). -/
theorem phase_of_step_reset (hrst : s.now.rst = true) (hst : step s = .next t) : t.phase = 0#3 := by
  have hfetch : fetch s = .reset := by simp [fetch, hrst]
  unfold step at hst
  rw [hfetch] at hst
  cases hst
  rfl

/-! ### `Complete` -/

theorem bytesFrom_cons (m : List Host.Cell) (x n : Nat) :
    bytesFrom m x (n + 1) = readByte m x :: bytesFrom m (x + 1) n := by
  simp [bytesFrom, List.range_succ_eq_map, Function.comp_def, Nat.add_assoc, Nat.add_comm 1]

/-- The payload of a READ of `n` bytes is its `n` bytes received so far (44_transactions R162). -/
theorem readPayloadTrace_bytesFrom (c d x n : Nat) (m : List Host.Cell) :
    readPayloadTrace c d x (bytesFrom m x n) = readSoFar c d x n m n := by
  induction n generalizing x with
  | zero => rfl
  | succ n ih =>
    rw [bytesFrom_cons, readPayloadTrace, ih, readSoFar, readSoFar, List.range_succ_eq_map, List.flatMap_cons,
      List.flatMap_map]
    congr 1
    · cases n with
      | zero => rfl
      | succ n => rw [bytesFrom_cons]; simp
    · refine congrArg List.flatten (List.map_congr_left fun k _ => ?_)
      rw [Nat.add_assoc, Nat.add_comm 1]
      simp

/-- When `Complete` is due the step is `Complete`, and it appends `END` (44_transactions R164). -/
theorem step_of_complete (hrst : s.now.rst = false) (hp : s.phase = 4#3) (hd : s.due = .complete) :
    ∃ t, step s = .next t ∧ t.trace = s.trace ++ [.done s.result] := by
  have hfetch : fetch s = .complete := by simp [fetch, hrst, hp, phaseOf, hd]
  refine ⟨envStep (completeCommand s.result s), ?_, rfl⟩
  unfold step
  rw [hfetch]
  rfl

/-- When `Complete` is due, STOP has emitted its whole step list. -/
theorem uopSoFar_of_complete (h : ControlSound s) (hp : s.phase = 4#3) (hd : s.due = .complete) :
    uopSoFar s = stopTrace s.sclRef s.sdaRef := by
  have hu : s.uopWord = encode .stop := by
    have hstop : Admitted s ∧ StopControl s := by simpa [ControlSound, hp] using h
    obtain ⟨-, ⟨hu, -⟩ | ⟨hu, -⟩, -⟩ := hstop <;> exact hu
  have hover : s.due ≠ .uop := by rw [hd]; decide
  rw [uopSoFar_of_over hover, uopTrace_of_over (i := .stop) rfl hu hover]
  rfl

/-- What a command that succeeded has emitted before its `Complete`. -/
theorem trace_of_success {base : List Event} (h : ControlSound s) (htr : TraceSince base s) (hp : s.phase = 4#3)
    (hd : s.due = .complete) (hres : s.result = .success) :
    s.trace = base ++ (headTrace s 0#1 ++ payloadSoFar s s.len ++ stopTrace s.sclRef s.sdaRef) := by
  obtain ⟨l, hl, htrace⟩ := htr
  rw [commandTraces_of_success hp hres, uopSoFar_of_complete h hp hd] at hl
  rw [htrace, List.mem_singleton.mp hl]

/-- What a command that failed has emitted before its `Complete`. -/
theorem trace_of_failure {base : List Event} (h : ControlSound s) (htr : TraceSince base s) (hp : s.phase = 4#3)
    (hd : s.due = .complete) (hres : s.result = .ackFailure) :
    s.trace = base ++ (headTrace s 1#1 ++ stopTrace s.sclRef s.sdaRef) ∨
      (s.rw = 0#1 ∧ s.idx < s.len ∧ s.trace = base ++ (headTrace s 0#1 ++ payloadSoFar s s.idx ++
        writeByteTrace s.sclRef s.sdaRef s.byteAddr (readByte s.mem s.byteAddr) 1#1 ++
          stopTrace s.sclRef s.sdaRef)) := by
  obtain ⟨l, hl, htrace⟩ := htr
  rw [commandTraces_of_failure hp hres, uopSoFar_of_complete h hp hd] at hl
  rcases List.mem_append.mp hl with hl | hl
  · exact .inl (by rw [htrace, List.mem_singleton.mp hl])
  · split at hl
    · rename_i hc
      exact .inr ⟨hc.1, hc.2, by rw [htrace, List.mem_singleton.mp hl]⟩
    · cases hl

end Sys2Proof.Safety

namespace Sys2Proof

open Machine Safety

/-- Settles O46: the events a step adds to the trace are those it adds to what the command has emitted. -/
theorem traceFollowsTheTransaction : Obligations.TraceFollowsTheTransaction := by
  unfold Obligations.TraceFollowsTheTransaction
  intro s t hs htrace hst hp
  have hrst : s.now.rst = false := by
    by_contra h
    exact hp (phase_of_step_reset (by simpa using h) hst)
  obtain ⟨es, hes, hmem⟩ := extends_of_step hs hrst hst hp
  obtain ⟨l, hl, hsuffix⟩ : ∃ l ∈ commandTraces s, l <:+ s.trace := by
    by_cases h0 : s.phase = 0#3
    · exact ⟨[], by simp [commandTraces_of_idle h0], List.nil_suffix⟩
    · exact htrace h0
  refine ⟨l ++ es, hmem l hl, ?_⟩
  rw [hes]
  obtain ⟨base, hbase⟩ := hsuffix
  exact ⟨base, by rw [← hbase, List.append_assoc]⟩

/-- Settles O57: between commands nothing is pending; every step adds to the command's trace what it adds to the trace;
and when `Complete` is due STOP is over, so that with `END` the trace is the whole transaction. -/
theorem commandEmitsExactlyItsTrace : Obligations.CommandEmitsExactlyItsTrace := by
  unfold Obligations.CommandEmitsExactlyItsTrace
  refine ⟨fun s hp => ?_, fun base s t hs htr hrst hst hp => ?_, fun base s hs htr hrst hp hd => ?_⟩
  · exact ⟨[], by simp [commandTraces_of_idle hp], (List.append_nil _).symm⟩
  · obtain ⟨es, hes, hmem⟩ := extends_of_step hs hrst hst hp
    obtain ⟨l, hl, htrace⟩ := htr
    exact ⟨l ++ es, hmem l hl, by rw [hes, htrace, List.append_assoc]⟩
  · obtain ⟨-, hc, -⟩ := hs
    obtain ⟨t, hst, htrace⟩ := step_of_complete hrst hp hd
    refine ⟨t, hst, fun hres hrw => ?_, fun hres hrw => ?_, fun hres => ?_⟩
    · rw [htrace, trace_of_success hc htr hp hd hres, hres, payloadSoFar_of_write hrw]
      simp [writeTrace, headTrace]
    · rw [htrace, trace_of_success hc htr hp hd hres, hres, payloadSoFar_of_read hrw, ← readPayloadTrace_bytesFrom]
      simp [readTrace, headTrace]
    · rcases trace_of_failure hc htr hp hd hres with h | ⟨hrw, hlt, h⟩
      · left
        rw [htrace, h, hres]
        simp [addressFailTrace, headTrace]
      · refine .inr ⟨hrw, s.idx, hlt, ?_⟩
        rw [htrace, h, hres, payloadSoFar_of_write hrw]
        simp [writeFailTrace, headTrace, State.byteAddr]

end Sys2Proof
end

section
/-! What one part of a step does to the ports, the pins, the trace and the command registers, and what each step is about:
said once for the proofs about every step (20_memory R60, 60_exceptions R196). -/

namespace Sys2Proof.Machine

variable {i : Instr} {s r : State}

/-! ### The ports and pins of a step -/

/-- `DRV` after the events of one action (40_delay_and_lines R92, R93). -/
def drivenAfter (es : List Event) (l : List Nat) : List Nat :=
  match es with
  | [.high c] => setDrive c .rel l
  | [.low c] => setDrive c .low l
  | _ => l

/-- The output ports after the events of one action (30_encoding R80, R81). -/
def portsAfter (es : List Event) (o : Outputs) : Outputs :=
  match es with
  | [.high c] => o.gpio 0b01 c
  | [.low c] => o.gpio 0b10 c
  | [.sample c _] => o.gpio 0b11 c
  | [.delay] => o.timer
  | _ => o.none

/-- The events of an action say what it did to the ports and the pins. -/
theorem Acted.events (h : Acted s r) :
    ∃ es, r.trace = s.trace ++ es ∧ r.drvLow = drivenAfter es s.drvLow ∧ r.out = portsAfter es s.out := by
  obtain ⟨a, ha, hr⟩ := h
  rw [hr]
  cases ha with
  | high l => exact ⟨[.high (s.lineRef l)], rfl, rfl, rfl⟩
  | low l => exact ⟨[.low (s.lineRef l)], rfl, rfl, rfl⟩
  | read => exact ⟨[.sample s.sdaRef s.sdaRead], rfl, rfl, rfl⟩
  | beginDelay => exact ⟨[.delay], rfl, rfl, rfl⟩
  | endDelay | none => exact ⟨[], (List.append_nil _).symm, rfl, rfl⟩

theorem Acted.mem_eq (h : Acted s r) : r.mem = s.mem := by
  obtain ⟨a, ha, hr⟩ := h
  rw [hr]
  cases ha <;> rfl

/-- An action has no buffer access (10_state R42). -/
theorem Acted.memOp_eq (h : Acted s r) : r.out.memOp = 0b00#2 := by
  obtain ⟨a, ha, hr⟩ := h
  rw [hr]
  cases ha <;> rfl

/-- An action drives no pin but SCL and SDA. -/
theorem Acted.drv_eq_of_ne (h : Acted s r) {c : Nat} (hscl : c ≠ s.sclRef) (hsda : c ≠ s.sdaRef) :
    r.drv c = s.drv c := by
  have hne (l : Line) : c ≠ s.lineRef l := by
    cases l with
    | scl => exact hscl
    | sda => exact hsda
  obtain ⟨a, ha, hr⟩ := h
  rw [hr]
  cases ha with
  | high l => exact (setLineHigh_drv l s c).trans (if_neg (hne l))
  | low l => exact (setLineLow_drv l s c).trans (if_neg (hne l))
  | read | beginDelay | endDelay | none => rfl

/-- The only action with a sample event is the read of SDA. -/
theorem Acted.sdaRead_of_sample (h : Acted s r) {c : Nat} {v : Bit} (ht : r.trace = s.trace ++ [.sample c v]) :
    v = s.sdaRead := by
  obtain ⟨a, ha, hr⟩ := h
  rw [hr] at ht
  cases ha <;> simp at ht
  exact ht.2.symm

/-! ### What a step is about -/

/-- Whatever the core does in its part, the step is that part followed by the environment's. -/
theorem step_of_coreStep (h : CoreStep s r) : step s = .next (envStep r) := by
  unfold step
  cases h with
  | reset h | wait h | complete h => rw [h]; rfl
  | run i _ h he | choose _ h he | memRead _ h he | memWrite _ h he => rw [h]; simp only [he]; rfl

theorem phaseOf_eq_some_iff {p : BitVec 3} {ph : Phase} : phaseOf p = some ph ↔ p = phaseCode ph := by
  revert p
  cases ph <;> decide

/-- While a command runs and an action is due, the step is about the micro-op at `UOP`. -/
theorem fetch_of_uop (hrst : s.now.rst = false) (hp : Safety.Running s) (hd : s.due = .uop)
    (hu : decodeUop s.uopWord = .ok i) : fetch s = .run i := by
  rcases hp with hp | hp | hp | hp <;> simp [fetch, hrst, hp, phaseOf, hd, hu]

/-- In IDLE without an offer, or while BUSY, there is nothing to accept. -/
theorem fetch_of_idle (hrst : s.now.rst = false) (hp : s.phase = 0#3) (h : s.now.cmdValid = false ∨ s.busy = 1#1) :
    fetch s = .wait := by
  have hoffer : (s.now.cmdValid && s.cmdReady) = false := by
    rcases h with h | h <;> simp [State.cmdReady, h]
  simp [fetch, hrst, hp, phaseOf, hoffer]

/-! ### Commands and micro-ops -/

/-- The decoder of micro-op words reads no command (30_encoding R78). -/
theorem decodeUop_ne_command {w : Word} (h : decodeUop w = .ok i) : (∀ a, i ≠ .write a) ∧ ∀ a, i ≠ .read a := by
  unfold decodeUop at h
  repeat' split at h
  all_goals cases h
  all_goals exact ⟨nofun, nofun⟩

/-- Only a command has an admissible word (30_encoding R75). -/
theorem command_of_wf {p : Params} (h : (offerNow (encode i) s).wf p = true) :
    (∃ a, i = .write a) ∨ ∃ a, i = .read a := by
  have hrsvd : wfRsvd (offerNow (encode i) s) = true := by
    simp only [Offer.wf, Bool.and_eq_true] at h
    obtain ⟨⟨⟨hrsvd, -⟩, -⟩, -⟩ := h
    exact hrsvd
  have hcode : (encode i).extractLsb' 12 4 = 0#4 := by simpa [wfRsvd, offerNow] using hrsvd
  cases i with
  | write a => exact .inl ⟨a, rfl⟩
  | read a => exact .inr ⟨a, rfl⟩
  | txByte b => exact absurd hcode (by clear h hrsvd hcode; revert b; decide)
  | lineHigh l | lineLow l => cases l <;> exact absurd hcode (by decide)
  | delayHalf | lineRead | start | stop | rxByte | checkAck | sendAck | sendNack => exact absurd hcode (by decide)

/-- The decoder of command words reads only commands (30_encoding R72). -/
theorem command_of_decodeCmd {w : Word} (h : decodeCmd w = .ok i) : (∃ a, i = .write a) ∨ ∃ a, i = .read a := by
  unfold decodeCmd at h
  repeat' split at h
  all_goals cases h
  · exact .inl ⟨_, rfl⟩
  · exact .inr ⟨_, rfl⟩

/-- An offered command is held or accepted (44_transactions R160). -/
theorem exec_command_next (hi : (∃ a, i = .write a) ∨ ∃ a, i = .read a) (he : exec i s = .next r) :
    r = s.noAction ∨ ((offerNow (encode i) s).wf s.par = true ∧ r = latchCommand (offerNow (encode i) s) s) := by
  have haccept : acceptCommand (encode i) s = .next r := by rcases hi with ⟨a, rfl⟩ | ⟨a, rfl⟩ <;> exact he
  exact (acceptCommand_next haccept).imp_right fun ⟨_, hwf, hr⟩ => ⟨hwf, hr⟩

/-- The micro-op at `UOP` does one port action. -/
theorem exec_acted_of_uop {w : Word} (hu : decodeUop w = .ok i) (he : exec i s = .next r) : Acted s r := by
  obtain ⟨hwrite, hread⟩ := decodeUop_ne_command hu
  refine (exec_next he).resolve_right ?_
  rintro ⟨-, hwf, -⟩
  rcases command_of_wf hwf with ⟨a, rfl⟩ | ⟨a, rfl⟩
  · exact hwrite a rfl
  · exact hread a rfl

/-! ### What a step does to the command registers, `STATUS` and the trace -/

/-- `CMD`, `LEN`, `BUF`, `SCL_REF` and `SDA_REF` are the same (10_state R22 to R25). -/
def SameCommand (s r : State) : Prop :=
  r.cmd = s.cmd ∧ r.len = s.len ∧ r.buf = s.buf ∧ r.sclRef = s.sclRef ∧ r.sdaRef = s.sdaRef

theorem Acted.sameCommand (h : Acted s r) : SameCommand s r := by
  obtain ⟨-, hcmd, hlen, hbuf, hscl, hsda, -⟩ := h.sameControl
  exact ⟨hcmd, hlen, hbuf, hscl, hsda⟩

theorem Acted.status_eq (h : Acted s r) : r.status = s.status := by
  obtain ⟨-, -, -, -, -, -, hstatus, -⟩ := h.sameControl
  exact hstatus

theorem Choice.sameCommand (h : Choice s r) : SameCommand s r := by cases h <;> simp [SameCommand]

theorem Choice.status_eq (h : Choice s r) : r.status = s.status := by cases h <;> simp

theorem Choice.trace_eq (h : Choice s r) : r.trace = s.trace := by cases h <;> simp

/-- While a command runs no part of a step but a reset writes the command registers (44_transactions R168). -/
theorem CoreStep.sameCommand (h : CoreStep s r) (hrst : s.now.rst = false) (hp : s.phase ≠ 0#3) : SameCommand s r := by
  cases h with
  | reset h => exact absurd (hrst.symm.trans (fetchedWhen_of_fetch h)) Bool.false_ne_true
  | wait | complete => exact ⟨rfl, rfl, rfl, rfl, rfl⟩
  | run i r h he =>
    rcases fetchedWhen_of_fetch h with ⟨h0, -⟩ | ⟨-, -, hu⟩
    · exact absurd h0 hp
    · exact (exec_acted_of_uop hu he).sameCommand
  | choose r _ he => exact (sequence_next he).sameCommand
  | memRead r _ he => obtain ⟨-, rfl⟩ := readPayload_next he; exact ⟨rfl, rfl, rfl, rfl, rfl⟩
  | memWrite r _ he => obtain ⟨-, rfl⟩ := writePayload_next he; exact ⟨rfl, rfl, rfl, rfl, rfl⟩

/-- `STATUS` is written by reset, at accept and by `Complete` only (10_state R26). -/
theorem CoreStep.status_cases (h : CoreStep s r) :
    r.status = s.status ∨ r.status = 0x00#8 ∨ r.status = 0x01#8 ∨ r.status = 0x02#8 ∨ r.status = 0x06#8 := by
  cases h with
  | reset => exact .inr (.inl rfl)
  | wait => exact .inl rfl
  | run i r _ he =>
    rcases exec_next he with ha | ⟨-, -, rfl⟩
    · exact .inl ha.status_eq
    · exact .inr (.inr (.inl rfl))
  | choose r _ he => exact .inl (sequence_next he).status_eq
  | memRead r _ he => obtain ⟨-, rfl⟩ := readPayload_next he; exact .inl rfl
  | memWrite r _ he => obtain ⟨-, rfl⟩ := writePayload_next he; exact .inl rfl
  | complete =>
    refine .inr (.inr (.inr ?_))
    rw [completeCommand_status]
    cases s.result with
    | success => exact .inl rfl
    | ackFailure => exact .inr rfl

end Sys2Proof.Machine

namespace Sys2Proof

open Machine Safety

/-- Settles O9: the command is accepted, and accepting it only latches it. -/
theorem admissibleCommandIsAccepted : Obligations.AdmissibleCommandIsAccepted := by
  unfold Obligations.AdmissibleCommandIsAccepted
  intro i s hi hready hwf
  have he : exec i s = .next (latchCommand (offerNow (encode i) s) s) := by
    have haccept : acceptCommand (encode i) s = .next (latchCommand (offerNow (encode i) s) s) := by
      simp [acceptCommand, admitted, hready, hwf]
    rcases hi with ⟨a, rfl⟩ | ⟨a, rfl⟩ <;> exact haccept
  obtain ⟨hbusy, hdone, hackfail⟩ : statusBusy.extractLsb' 0 1 = 1#1 ∧ statusBusy.extractLsb' 1 1 = 0#1 ∧
      statusBusy.extractLsb' 2 1 = 0#1 := by decide
  exact ⟨_, he, rfl, rfl, rfl, rfl, rfl, hbusy, hdone, hackfail, rfl, rfl,
    issue_uopWord .start s.noAction, rfl, rfl, rfl, rfl, ⟨rfl, rfl, rfl⟩, rfl, rfl, fun _ => rfl, fun _ => rfl, rfl, rfl, rfl, rfl, rfl, rfl, rfl⟩

/-- Settles O35: every write of `STATUS` writes one of the four values. -/
theorem statusKeepsItsLegalValues : Obligations.StatusKeepsItsLegalValues := by
  unfold Obligations.StatusKeepsItsLegalValues
  intro s t hs hst
  obtain ⟨r, hr, rfl⟩ := step_next hst
  rcases hr.status_cases with h | h
  · rwa [envStep_status, h]
  · exact h

/-- Settles O36: only accept and reset write the command registers, and a running command accepts nothing. -/
theorem commandRegistersAreReadOnlyAfterAccept : Obligations.CommandRegistersAreReadOnlyAfterAccept := by
  unfold Obligations.CommandRegistersAreReadOnlyAfterAccept
  intro s t hrst hp hst
  obtain ⟨r, hr, rfl⟩ := step_next hst
  exact hr.sameCommand hrst hp

/-- Settles O26: the step is about the micro-op at `UOP`. -/
theorem stepRunsTheMicroOp : Obligations.StepRunsTheMicroOp := by
  unfold Obligations.StepRunsTheMicroOp
  intro s i hrst hp hd hu
  unfold step
  rw [fetch_of_uop hrst hp hd hu]

/-- Settles O27: the core waits, with no action on its ports. -/
theorem idleStepDoesNothing : Obligations.IdleStepDoesNothing := by
  unfold Obligations.IdleStepDoesNothing
  intro s hrst hp h
  exact ⟨s.noAction, step_of_coreStep (.wait (fetch_of_idle hrst hp h)),
    ⟨rfl, rfl, rfl, rfl, rfl, rfl, rfl, rfl, rfl, rfl, rfl, rfl, rfl, rfl⟩, ⟨rfl, rfl, rfl⟩, fun _ => rfl, fun _ => rfl,
    rfl, rfl, rfl, rfl, rfl, rfl, rfl, rfl⟩

/-- Settles O28: the values are those written in `State.reset`. -/
theorem resetHasTheSpecsValues : Obligations.ResetHasTheSpecsValues := by
  unfold Obligations.ResetHasTheSpecsValues
  exact ⟨rfl, rfl, rfl, rfl, rfl, rfl⟩

/-- Settles O47: the block is idle, every register and list is 0 or empty, and the parameters are admissible. -/
theorem resetMeetsTheInvariants : Obligations.ResetMeetsTheInvariants := by
  unfold Obligations.ResetMeetsTheInvariants
  have hfits : FitsWidths State.reset :=
    ⟨rfl, Nat.two_pow_pos _, Nat.two_pow_pos _, Nat.two_pow_pos _, Nat.two_pow_pos _, Nat.two_pow_pos _,
      Nat.two_pow_pos _, Nat.two_pow_pos _, Nat.two_pow_pos _, rfl, rfl, rfl, nofun⟩
  exact ⟨⟨hfits, .inl ⟨rfl, .inl rfl, rfl⟩, fun h => absurd rfl h⟩, fun h => absurd rfl h⟩

end Sys2Proof
end

section
/-! What a step of a compound micro-op does to the registers of the sub-blocks and to the position: `SR` and `BITCNT` agree
with `UPOS` at every action, and a micro-op that is being performed is still performed after a step
(10_state R29 to R33, 42_byte_shift R120, R121). -/

namespace Sys2Proof.Safety

open Sys2Proof.Machine

variable {i : Instr} {s r : State} {b : Byte}

/-! ### TX_BYTE and RX_BYTE, an action at a time -/

/-- Everything a step of TX_BYTE can do (42_byte_shift R120). -/
inductive TxStep (b : Byte) (s : State) : State → Prop where
  | load (hk : s.upos = 0) : TxStep b s (driveBit (loadTx b s)).nextPos
  | drive (hk : s.upos ≠ 0) (hmod : s.upos % 5 = 0) : TxStep b s (driveBit s).nextPos
  | high (hmod : s.upos % 5 = 1) : TxStep b s (setLineHigh .scl s).nextPos
  | delay (hmod : s.upos % 5 = 2) : TxStep b s (delayStep State.nextPos s)
  | low (hmod : s.upos % 5 = 3) : TxStep b s (setLineLow .scl s).nextPos
  | bitEnds (hmod : s.upos % 5 = 4) : TxStep b s (delayStep endTxBit s)

/-- Everything a step of RX_BYTE can do (42_byte_shift R121). -/
inductive RxStep (s : State) : State → Prop where
  | load (hk : s.upos = 0) : RxStep s (setLineHigh .sda (loadRx s)).nextPos
  | high (hmod : s.upos % 5 = 1) : RxStep s (setLineHigh .scl s).nextPos
  | delay (hmod : s.upos % 5 = 2) : RxStep s (delayStep State.nextPos s)
  | sample (hmod : s.upos % 5 = 3) : RxStep s (sampleBit s).nextPos
  | low (hmod : s.upos % 5 = 4) : RxStep s (setLineLow .scl s).nextPos
  | bitEnds (hk : s.upos ≠ 0) (hmod : s.upos % 5 = 0) : RxStep s (delayStep endBit s)

theorem execTxByte_txStep (hlt : s.upos < 40) : ∃ r, execTxByte b s = .next r ∧ TxStep b s r := by
  unfold execTxByte
  rw [if_neg (by omega)]
  split
  · exact ⟨_, rfl, .load ‹_›⟩
  split
  · exact ⟨_, rfl, .drive ‹_› ‹_›⟩
  · exact ⟨_, rfl, .high ‹_›⟩
  · exact ⟨_, rfl, .delay ‹_›⟩
  · exact ⟨_, rfl, .low ‹_›⟩
  · exact ⟨_, rfl, .bitEnds (by simp only [imp_false] at *; omega)⟩

theorem execRxByte_rxStep (hlt : s.upos < 41) : ∃ r, execRxByte s = .next r ∧ RxStep s r := by
  unfold execRxByte
  rw [if_neg (by omega)]
  split
  · exact ⟨_, rfl, .load ‹_›⟩
  split
  · exact ⟨_, rfl, .high ‹_›⟩
  · exact ⟨_, rfl, .delay ‹_›⟩
  · exact ⟨_, rfl, .sample ‹_›⟩
  · exact ⟨_, rfl, .low ‹_›⟩
  · exact ⟨_, rfl, .bitEnds ‹_› (by simp only [imp_false] at *; omega)⟩

theorem upos_lt_of_execTxByte (h : execTxByte b s = .next r) : s.upos < 40 := by
  unfold execTxByte at h
  split at h
  · cases h
  · omega

theorem upos_lt_of_execRxByte (h : execRxByte s = .next r) : s.upos < 41 := by
  unfold execRxByte at h
  split at h
  · cases h
  · omega

theorem txStep_of_exec (h : execTxByte b s = .next r) : TxStep b s r := by
  obtain ⟨r', hr', hstep⟩ := execTxByte_txStep (upos_lt_of_execTxByte h)
  cases hr'.symm.trans h
  exact hstep

theorem rxStep_of_exec (h : execRxByte s = .next r) : RxStep s r := by
  obtain ⟨r', hr', hstep⟩ := execRxByte_rxStep (upos_lt_of_execRxByte h)
  cases hr'.symm.trans h
  exact hstep

/-- A compound micro-op answers a next state at every position of its expansion (10_state R29). -/
theorem exec_isNext (hi : compound i = true) (hlt : s.upos < opLength i) : ∃ r, exec i s = .next r := by
  cases i with
  | txByte b => obtain ⟨r, hr, -⟩ := execTxByte_txStep (b := b) hlt; exact ⟨r, hr⟩
  | rxByte => obtain ⟨r, hr, -⟩ := execRxByte_rxStep hlt; exact ⟨r, hr⟩
  | start | stop | checkAck | sendAck | sendNack =>
    simp only [opLength] at hlt
    simp only [exec, execStart, execStop, execCheckAck, execSendAck, execSendNack]
    split
    on_goal -1 => simp only [imp_false] at *; omega
    all_goals exact ⟨_, rfl⟩
  | write | read | delayHalf | lineHigh | lineLow | lineRead => cases hi

/-! ### What a micro-op leaves unchanged -/

/-- `r` is `s` after a step of micro-op `i`, as far as the registers of the sub-blocks and `TCNT` go (10_state R33, R42). -/
structure KeepsRest (i : Instr) (s r : State) : Prop where
  shift : (∀ b, i ≠ .txByte b) → i ≠ .rxByte → r.sr = s.sr ∧ r.bitcnt = s.bitcnt
  ackbit : i ≠ .checkAck → r.ackbit = s.ackbit
  tcnt : r.tcnt = s.tcnt ∨ (delayAt i s.upos = true ∧ s.dlyWait = 0#1 ∧ r.tcnt = 0)

/-- A line action. -/
theorem KeepsRest.of_kept (hsr : r.sr = s.sr) (hbit : r.bitcnt = s.bitcnt) (hack : r.ackbit = s.ackbit)
    (ht : r.tcnt = s.tcnt) : KeepsRest i s r := ⟨fun _ _ => ⟨hsr, hbit⟩, fun _ => hack, .inl ht⟩

/-- A delay whose end, `fin`, keeps what micro-op `i` keeps. -/
theorem KeepsRest.of_delayStep {fin : State → State} {k : Nat} (hk : s.upos = k) (hdelay : delayAt i k = true)
    (hfin : ∀ x, KeepsRest i x (fin x) ∧ (fin x).tcnt = x.tcnt) : KeepsRest i s (delayStep fin s) := by
  rcases delayStep_cases fin s with ⟨hw, h⟩ | ⟨-, -, h⟩ | ⟨-, -, h⟩ <;> rw [h]
  · exact ⟨fun _ _ => ⟨rfl, rfl⟩, fun _ => rfl, .inr ⟨hk ▸ hdelay, hw, rfl⟩⟩
  · obtain ⟨⟨hshift, hack, -⟩, ht⟩ := hfin (endDelay s)
    exact ⟨hshift, hack, .inl ht⟩
  · exact .of_kept rfl rfl rfl rfl

/-- A delay after which the position moves on. -/
theorem KeepsRest.of_delay {k : Nat} (hk : s.upos = k) (hdelay : delayAt i k = true) :
    KeepsRest i s (delayStep State.nextPos s) :=
  .of_delayStep (fin := State.nextPos) hk hdelay fun _ => ⟨.of_kept rfl rfl rfl rfl, rfl⟩

/-- A delay after which the micro-op has ended. -/
theorem KeepsRest.of_lastDelay {k : Nat} (hk : s.upos = k) (hdelay : delayAt i k = true) :
    KeepsRest i s (delayStep State.endUop s) :=
  .of_delayStep (fin := State.endUop) hk hdelay fun _ => ⟨.of_kept rfl rfl rfl rfl, rfl⟩

theorem TxStep.keepsRest (h : TxStep b s r) : KeepsRest (.txByte b) s r := by
  cases h with
  | load hk => exact ⟨fun hne => absurd rfl (hne b), fun _ => by simp, .inl (by simp)⟩
  | drive => exact .of_kept (by simp) (by simp) (by simp) (by simp)
  | high | low => exact .of_kept rfl rfl rfl rfl
  | delay hmod => exact .of_delay rfl (by simp [delayAt, hmod])
  | bitEnds hmod =>
    exact .of_delayStep rfl (by simp [delayAt, hmod]) fun x =>
      ⟨⟨fun hne => absurd rfl (hne b), fun _ => endTxBit_ackbit x, .inl (endTxBit_tcnt x)⟩, endTxBit_tcnt x⟩

theorem RxStep.keepsRest (h : RxStep s r) : KeepsRest .rxByte s r := by
  cases h with
  | load | sample => exact ⟨fun _ hne => absurd rfl hne, fun _ => rfl, .inl rfl⟩
  | high | low => exact .of_kept rfl rfl rfl rfl
  | delay hmod => exact .of_delay rfl (by simp [delayAt, hmod])
  | bitEnds hk hmod =>
    exact .of_delayStep rfl (by simp [delayAt, hk, hmod]) fun x =>
      ⟨⟨fun _ hne => absurd rfl hne, fun _ => endBit_ackbit x, .inl (endBit_tcnt x)⟩, endBit_tcnt x⟩

theorem exec_keepsRest (hi : compound i = true) (h : exec i s = .next r) : KeepsRest i s r := by
  cases i with
  | txByte b => exact (txStep_of_exec h).keepsRest
  | rxByte => exact (rxStep_of_exec h).keepsRest
  | start | stop =>
    simp only [exec, execStart, execStop] at h
    split at h <;> cases h
    case h_3 | h_5 => exact .of_delay ‹_› rfl
    case h_7 => exact .of_lastDelay ‹_› rfl
    all_goals exact .of_kept rfl rfl rfl rfl
  | checkAck =>
    simp only [exec, execCheckAck] at h
    split at h <;> cases h
    case h_3 => exact .of_delay ‹_› rfl
    case h_4 => exact ⟨fun _ _ => ⟨rfl, rfl⟩, fun hne => absurd rfl hne, .inl rfl⟩
    case h_6 => exact .of_lastDelay ‹_› rfl
    all_goals exact .of_kept rfl rfl rfl rfl
  | sendAck =>
    simp only [exec, execSendAck] at h
    split at h <;> cases h
    case h_3 => exact .of_delay ‹_› rfl
    case h_6 => exact .of_lastDelay ‹_› rfl
    all_goals exact .of_kept rfl rfl rfl rfl
  | sendNack =>
    simp only [exec, execSendNack] at h
    split at h <;> cases h
    case h_3 => exact .of_delay ‹_› rfl
    case h_5 => exact .of_lastDelay ‹_› rfl
    all_goals exact .of_kept rfl rfl rfl rfl
  | write | read | delayHalf | lineHigh | lineLow | lineRead => cases hi

/-! ### `SR` and `BITCNT` at every action -/

theorem shiftAt_of_first (hk : s.upos = 0) : ShiftAt i s := by
  cases i with
  | txByte | rxByte => exact .inl hk
  | _ => trivial

/-- A delay keeps `ShiftAt` if its end does. -/
theorem ShiftAt.delayStep {fin : State → State} (hs : ShiftAt i s) (hdue : (delayStep fin s).due = .uop)
    (hfin : (fin (endDelay s)).due = .uop → ShiftAt i (fin (endDelay s))) : ShiftAt i (delayStep fin s) := by
  rcases delayStep_cases fin s with ⟨-, h⟩ | ⟨-, -, h⟩ | ⟨-, -, h⟩ <;> rw [h] at hdue ⊢
  · exact hs
  · exact hfin hdue
  · exact hs

/-- Shifting a 0 in moves every bit up by one place. -/
theorem shiftIn_zero (x : Byte) : (x.extractLsb' 0 7 ++ 0#1 : BitVec (7 + 1)) = x <<< 1 := by
  revert x
  decide

theorem ofNat_sub_one {q : Nat} (hq : q < 8) : BitVec.ofNat 4 (8 - q) - 1#4 = BitVec.ofNat 4 (8 - (q + 1)) := by
  interval_cases q <;> rfl

/-- An action of TX_BYTE that is not the end of a bit. -/
theorem shiftAt_txByte_of_kept (hs : s.sr = b <<< (s.upos / 5) ∧ s.bitcnt = BitVec.ofNat 4 (8 - s.upos / 5))
    (hmod : s.upos % 5 ≠ 4) (hpos : r.upos = s.upos + 1) (hsr : r.sr = s.sr) (hbit : r.bitcnt = s.bitcnt) :
    ShiftAt (.txByte b) r := by
  refine .inr ?_
  rw [hpos, hsr, hbit, show (s.upos + 1) / 5 = s.upos / 5 by omega]
  exact hs

theorem TxStep.shiftAt (hs : ShiftAt (.txByte b) s) (hlt : s.upos < 40) (h : TxStep b s r) (hdue : r.due = .uop) :
    ShiftAt (.txByte b) r := by
  have hreg (hk : s.upos ≠ 0) := hs.resolve_left hk
  cases h with
  | load hk => exact .inr (by simp [hk, loadTx])
  | drive hk hmod => exact shiftAt_txByte_of_kept (hreg hk) (by omega) (by simp) (by simp) (by simp)
  | high hmod | low hmod => exact shiftAt_txByte_of_kept (hreg (by omega)) (by omega) rfl rfl rfl
  | delay hmod =>
    exact hs.delayStep hdue fun _ => shiftAt_txByte_of_kept (hreg (by omega)) (by omega) rfl rfl rfl
  | bitEnds hmod =>
    refine hs.delayStep hdue fun hdue => ?_
    obtain ⟨hsr, hbit⟩ := hreg (by omega)
    unfold endTxBit at hdue ⊢
    rcases endBit_cases (shiftIn 0#1 (endDelay s)) with ⟨-, h⟩ | ⟨-, h⟩ <;> rw [h] at hdue ⊢
    · cases hdue
    · have hquot : (s.upos + 1) / 5 = s.upos / 5 + 1 := by omega
      refine .inr ⟨?_, ?_⟩
      · show (s.sr.extractLsb' 0 7 ++ 0#1 : BitVec (7 + 1)) = b <<< ((s.upos + 1) / 5)
        rw [shiftIn_zero, hsr, hquot, BitVec.shiftLeft_add]
      · show s.bitcnt - 1#4 = BitVec.ofNat 4 (8 - (s.upos + 1) / 5)
        rw [hbit, hquot, ofNat_sub_one (by omega)]

/-- An action of RX_BYTE that is not the end of a bit. -/
theorem shiftAt_rxByte_of_kept (hs : s.bitcnt = BitVec.ofNat 4 (8 - (s.upos - 1) / 5)) (hmod : s.upos % 5 ≠ 0)
    (hpos : r.upos = s.upos + 1) (hbit : r.bitcnt = s.bitcnt) : ShiftAt .rxByte r := by
  refine .inr ?_
  rw [hpos, hbit, show (s.upos + 1 - 1) / 5 = (s.upos - 1) / 5 by omega]
  exact hs

theorem RxStep.shiftAt (hs : ShiftAt .rxByte s) (hlt : s.upos < 41) (h : RxStep s r) (hdue : r.due = .uop) :
    ShiftAt .rxByte r := by
  have hreg (hk : s.upos ≠ 0) := hs.resolve_left hk
  cases h with
  | load hk => exact .inr (by simp [hk, loadRx])
  | high hmod | sample hmod | low hmod => exact shiftAt_rxByte_of_kept (hreg (by omega)) (by omega) rfl rfl
  | delay hmod => exact hs.delayStep hdue fun _ => shiftAt_rxByte_of_kept (hreg (by omega)) (by omega) rfl rfl
  | bitEnds hk hmod =>
    refine hs.delayStep hdue fun hdue => ?_
    rcases endBit_cases (endDelay s) with ⟨-, h⟩ | ⟨-, h⟩ <;> rw [h] at hdue ⊢
    · cases hdue
    · refine .inr ?_
      show s.bitcnt - 1#4 = BitVec.ofNat 4 (8 - (s.upos + 1 - 1) / 5)
      rw [hreg hk, show (s.upos + 1 - 1) / 5 = (s.upos - 1) / 5 + 1 by omega, ofNat_sub_one (by omega)]

/-- Inside a micro-op every step keeps `SR` and `BITCNT` at the values of its position. -/
theorem exec_shiftAt (hi : compound i = true) (hs : ShiftAt i s) (h : exec i s = .next r) (hdue : r.due = .uop) :
    ShiftAt i r := by
  cases i with
  | txByte b => exact (txStep_of_exec h).shiftAt hs (upos_lt_of_execTxByte h) hdue
  | rxByte => exact (rxStep_of_exec h).shiftAt hs (upos_lt_of_execRxByte h) hdue
  | start | stop | checkAck | sendAck | sendNack => trivial
  | write | read | delayHalf | lineHigh | lineLow | lineRead => cases hi

/-! ### A micro-op that is being performed -/

/-- Every expansion ends with a DELAY_HALF (40_delay_and_lines R91). -/
theorem delayAt_last {k : Nat} (hi : compound i = true) (hk : k + 1 = opLength i) : delayAt i k = true := by
  obtain rfl : k = opLength i - 1 := by omega
  cases i with
  | txByte => simp [delayAt, opLength]
  | start | stop | rxByte | checkAck | sendAck | sendNack => rfl
  | write | read | delayHalf | lineHigh | lineLow | lineRead => cases hi

/-- A step of a micro-op that is being performed leaves it at one of its actions, or ended. -/
theorem exec_performing (hi : compound i = true) (hp : Performing i s) (hd : s.due = .uop) (he : exec i s = .next r) :
    Performing i r := by
  obtain ⟨hu, hlt, hdw, hshift⟩ := hp.running hd
  have hshift' : r.due = .uop → ShiftAt i r := exec_shiftAt hi hshift he
  refine ⟨(exec_acted hi he).uopWord_eq.trans hu, ?_⟩
  cases exec_microOpStep hi hshift he with
  | acts h =>
    have hdue := h.due.trans hd
    have hnot : s.upos + 1 ≠ opLength i := fun hlast => Bool.false_ne_true (h.delay.symm.trans (delayAt_last hi hlast))
    refine .inl ⟨hdue, by rw [h.upos]; omega, fun hw => ?_, hshift' hdue⟩
    exact absurd (h.delay.symm.trans (hdw (h.dlyWait ▸ hw))) Bool.false_ne_true
  | delayBegins hdelay => exact .inl ⟨hd, hlt, fun _ => hdelay, hshift⟩
  | waits hdelay => exact .inl ⟨hd, hlt, fun _ => hdelay, hshift⟩
  | delayEnds h =>
    have hpos := h.position
    split at hpos
    · exact .inr ⟨hpos.2, hpos.1, h.dlyWait⟩
    · have hdue := hpos.2.trans hd
      exact .inl ⟨hdue, by rw [hpos.1]; omega, fun hw => absurd (h.dlyWait.symm.trans hw) (by decide), hshift' hdue⟩

/-- A micro-op at its first action. -/
theorem Performing.of_begun (hi : compound i = true) (hu : s.uopWord = encode i) (hd : s.due = .uop) (hk : s.upos = 0)
    (hw : s.dlyWait = 0#1) : Performing i s := by
  refine ⟨hu, .inl ⟨hd, ?_, fun h => absurd (hw.symm.trans h) (by decide), shiftAt_of_first hk⟩⟩
  rw [hk]
  cases i with
  | start | stop | txByte | rxByte | checkAck | sendAck | sendNack => exact Nat.succ_pos _
  | write | read | delayHalf | lineHigh | lineLow | lineRead => cases hi

end Sys2Proof.Safety

namespace Sys2Proof

open Machine Safety

/-- Settles O16: a step at a position of the expansion is an action, or the beginning, a poll or the end of a delay. -/
theorem microOpsPerformTheirStepLists : Obligations.MicroOpsPerformTheirStepLists := by
  unfold Obligations.MicroOpsPerformTheirStepLists
  intro i s hi hlt hs
  obtain ⟨t, ht⟩ := exec_isNext hi hlt
  refine ⟨t, ht, ?_⟩
  cases exec_microOpStep hi hs ht with
  | @acts e _ h =>
    have hno {P : Prop} (hd : delayAt i s.upos = true) : P := absurd (h.delay.symm.trans hd) Bool.false_ne_true
    exact ⟨fun _ => ⟨⟨e, h.event, h.trace⟩, h.upos, h.due, h.dlyWait, h.tcnt⟩, fun hd => hno hd, fun hd => hno hd,
      fun hd => hno hd⟩
  | delayBegins hdelay hw =>
    have hno {P : Prop} (h1 : s.dlyWait = 1#1) : P := absurd (hw.symm.trans h1) (by decide)
    exact ⟨fun hd => absurd (hd.symm.trans hdelay) Bool.false_ne_true, fun _ _ => ⟨rfl, rfl, rfl, rfl, rfl⟩,
      fun _ h1 => hno h1, fun _ h1 => hno h1⟩
  | waits hdelay hw hlow =>
    exact ⟨fun hd => absurd (hd.symm.trans hdelay) Bool.false_ne_true,
      fun _ h0 => absurd (hw.symm.trans h0) (by decide), fun _ _ _ => ⟨rfl, hw, rfl, rfl, rfl⟩,
      fun _ _ hover => absurd hover (by omega)⟩
  | delayEnds h =>
    exact ⟨fun hd => absurd (hd.symm.trans h.delay) Bool.false_ne_true,
      fun _ h0 => absurd (h.waiting.symm.trans h0) (by decide), fun _ _ hlow => absurd h.threshold (by omega),
      fun _ _ _ => ⟨h.trace, h.dlyWait, h.tcnt, h.position⟩⟩

/-- Settles O17: a step of a compound micro-op is one port action, up to the position and the sub-blocks' registers. -/
theorem microOpsLeaveTheRestUnchanged : Obligations.MicroOpsLeaveTheRestUnchanged := by
  unfold Obligations.MicroOpsLeaveTheRestUnchanged
  intro i s t hi he
  have hacted := exec_acted hi he
  obtain ⟨hshift, hack, ht⟩ := exec_keepsRest hi he
  exact ⟨hacted.sameControl, fun a => by rw [hacted.mem_eq], fun c hscl hsda => hacted.drv_eq_of_ne hscl hsda, hshift,
    hack, ht, hacted.memOp_eq⟩

end Sys2Proof
end

section
/-! Every part of a step keeps the sequencer's registers consistent (10_state R26 to R32, 44_transactions R161 to R164). -/

namespace Sys2Proof.Safety

open Sys2Proof.Machine

variable {s r : State} {i j : Instr}

/-! ### What consistency says in each phase -/

theorem encode_injective_of_compound (hi : compound i = true) (hj : compound j = true) (h : encode i = encode j) :
    i = j := by
  have hdec := decodeUop_encode hi
  rw [h, decodeUop_encode hj] at hdec
  exact (Except.ok.inj hdec).symm

/-- At most one micro-op is being performed. -/
theorem Performing.unique (hi : compound i = true) (hj : compound j = true) (h : Performing i s) (h' : Performing j s) :
    i = j := encode_injective_of_compound hi hj (h.1.symm.trans h'.1)

theorem ControlSound.data (h : ControlSound s) (hp : s.phase = 3#3) :
    Admitted s ∧ s.idx < s.len ∧ (s.rw = 0#1 → WriteControl s) ∧ (s.rw = 1#1 → ReadControl s) := by
  simpa [ControlSound, hp] using h

theorem ControlSound.stop (h : ControlSound s) (hp : s.phase = 4#3) : Admitted s ∧ StopControl s := by
  simpa [ControlSound, hp] using h

theorem ControlSound.idle (h : ControlSound s) (hp : s.phase = 0#3) : IdleControl s := by
  simpa [ControlSound, hp] using h

/-- In phase DATA the last sample of CHECK_ACK was an ACK, except during the next CHECK_ACK (43_ack R143). -/
theorem ControlSound.ackbit_of_data (h : ControlSound s) (hp : s.phase = 3#3) (hno : ¬ Performing .checkAck s) :
    s.ackbit = 0#1 := by
  obtain ⟨-, -, hw, hr⟩ := h.data hp
  rcases bit_cases s.rw with hrw | hrw
  · rcases hw hrw with ⟨-, hack⟩ | hcheck
    · exact hack
    · exact absurd hcheck hno
  · exact (hr hrw).1

/-- A micro-op is performed only where an action of it, or the choice after it, is due. -/
theorem not_performing_of_due (hrun : s.due ≠ .uop) (hended : s.due ≠ .ended) : ¬ Performing i s := fun h =>
  h.due_cases.elim hrun hended

/-- `Complete` is due only in phase STOP and outside a delay. -/
theorem ControlSound.complete (h : ControlSound s) (hp : s.phase ≠ 0#3) (hd : s.due = .complete) :
    s.phase = 4#3 ∧ s.dlyWait = 0#1 := by
  have hno {j : Instr} : ¬ Performing j s := not_performing_of_due (by simp [hd]) (by simp [hd])
  rcases h with ⟨h0, -⟩ | ⟨-, ⟨-, h⟩ | ⟨-, h | h⟩ | ⟨-, -, hw, hr⟩ | ⟨hp', h | ⟨-, -, hdw⟩, -⟩⟩
  · exact absurd h0 hp
  · exact absurd h hno
  · exact absurd h hno
  · exact absurd h hno
  · rcases bit_cases s.rw with hrw | hrw
    · rcases hw hrw with ⟨⟨h, -⟩ | h, -⟩ | h
      · rw [h] at hd; cases hd
      · exact absurd h hno
      · exact absurd h hno
    · rcases hr hrw with ⟨-, h | ⟨h, -⟩ | ⟨h, -⟩ | ⟨h, -⟩⟩
      · exact absurd h hno
      · rw [h] at hd; cases hd
      · exact absurd h hno
      · exact absurd h hno
  · exact absurd h hno
  · exact ⟨hp', hdw⟩

/-- A buffer write is due only in a READ, with no NACK pending. -/
theorem ControlSound.write (h : ControlSound s) (hp : s.phase = 3#3) (hd : s.due = .memWrite) :
    s.rw = 1#1 ∧ s.ackbit = 0#1 := by
  have hno {j : Instr} : ¬ Performing j s := not_performing_of_due (by simp [hd]) (by simp [hd])
  obtain ⟨-, -, hw, -⟩ := h.data hp
  refine ⟨(bit_cases s.rw).resolve_left fun hrw => ?_, h.ackbit_of_data hp hno⟩
  rcases hw hrw with ⟨⟨h, -⟩ | h, -⟩ | h
  · rw [h] at hd; cases hd
  · exact absurd h hno
  · exact absurd h hno

/-- A buffer read is due only in a WRITE, with no NACK pending. -/
theorem ControlSound.read (h : ControlSound s) (hp : s.phase = 3#3) (hd : s.due = .memRead) :
    s.rw = 0#1 ∧ s.ackbit = 0#1 := by
  have hno {j : Instr} : ¬ Performing j s := not_performing_of_due (by simp [hd]) (by simp [hd])
  obtain ⟨-, -, -, hr⟩ := h.data hp
  refine ⟨(bit_cases s.rw).resolve_right fun hrw => ?_, h.ackbit_of_data hp hno⟩
  rcases hr hrw with ⟨-, h | ⟨h, -⟩ | ⟨h, -⟩ | ⟨h, -⟩⟩
  · exact absurd h hno
  · rw [h] at hd; cases hd
  · exact absurd h hno
  · exact absurd h hno

/-- While a command runs and an action is due, the step is about the micro-op being performed. -/
theorem ControlSound.performing_of_run (h : ControlSound s) (hp : s.phase ≠ 0#3) (hf : fetch s = .run i) :
    CurrentUop s i ∧ Performing i s ∧ s.due = .uop := by
  rcases fetchedWhen_of_fetch hf with ⟨h0, -⟩ | ⟨-, hd, hword⟩
  · exact absurd h0 hp
  · obtain ⟨j, hc, hperf⟩ := h.currentUop hp (.inl hd)
    rw [(hperf.running hd).1, decodeUop_encode hc.compound] at hword
    obtain rfl := Except.ok.inj hword
    exact ⟨hc, hperf, hd⟩

/-! ### Consistency from the micro-op performed -/

/-- The last sample of CHECK_ACK agrees with where micro-op `i` stands: an ACK behind every payload byte, and in phase STOP
the pending result (43_ack R143, 60_exceptions R192). -/
def AckSettled (i : Instr) (s : State) : Prop :=
  (s.phase = 3#3 → i ≠ .checkAck → s.ackbit = 0#1) ∧ (s.phase = 4#3 → (s.result = .ackFailure ↔ s.ackbit = 1#1))

theorem ControlSound.ackSettled (h : ControlSound s) (hi : compound i = true) (hperf : Performing i s) :
    AckSettled i s := by
  refine ⟨fun hp hne => h.ackbit_of_data hp fun hcheck => hne (hperf.unique hi rfl hcheck), fun hp => ?_⟩
  obtain ⟨-, -, hres⟩ := h.stop hp
  exact hres

/-- The micro-op being performed, with an admitted command, makes the sequencer consistent. -/
theorem ControlSound.of_currentUop (ha : Admitted s) (hin : s.phase = 3#3 → s.idx < s.len) (hc : CurrentUop s i)
    (h : Performing i s) (hack : AckSettled i s) : ControlSound s := by
  obtain ⟨hdata, hstop⟩ := hack
  have hwrite (hp : s.phase = 3#3) (hrw : s.rw = 0#1) (hw : WriteControl s) : ControlSound s :=
    .inr ⟨ha, .inr (.inr (.inl ⟨hp, hin hp, fun _ => hw, fun h1 => absurd (hrw.symm.trans h1) (by decide)⟩))⟩
  have hread (hp : s.phase = 3#3) (hrw : s.rw = 1#1) (hr : ReadControl s) : ControlSound s :=
    .inr ⟨ha, .inr (.inr (.inl ⟨hp, hin hp, fun h0 => absurd (hrw.symm.trans h0) (by decide), fun _ => hr⟩))⟩
  cases hc with
  | start hp => exact .inr ⟨ha, .inl ⟨hp, h⟩⟩
  | address hp => exact .inr ⟨ha, .inr (.inl ⟨hp, .inl h⟩)⟩
  | checkAddress hp => exact .inr ⟨ha, .inr (.inl ⟨hp, .inr h⟩)⟩
  | transmit hp hrw => exact hwrite hp hrw (.inl ⟨.inr h, hdata hp nofun⟩)
  | checkByte hp hrw => exact hwrite hp hrw (.inr h)
  | receive hp hrw => exact hread hp hrw ⟨hdata hp nofun, .inl h⟩
  | ack hp hrw hlast => exact hread hp hrw ⟨hdata hp nofun, .inr (.inr (.inl ⟨h, hlast⟩))⟩
  | nack hp hrw hlast => exact hread hp hrw ⟨hdata hp nofun, .inr (.inr (.inr ⟨h, hlast⟩))⟩
  | stop hp => exact .inr ⟨ha, .inr (.inr (.inr ⟨hp, .inl h, hstop hp⟩))⟩

/-- Which micro-op runs where does not depend on what an action changes. -/
theorem CurrentUop.of_acted (h : CurrentUop s i) (hr : Acted s r) : CurrentUop r i := by
  obtain ⟨-, hcmd, hlen, hbuf, -, -, -, hph, hidx, -⟩ := hr.sameControl
  have hrw : r.rw = s.rw := congrArg rwOf hcmd
  have haddr : r.addrByte = s.addrByte := congrArg addrByteOf hcmd
  have hbyte : readByte r.mem r.byteAddr = readByte s.mem s.byteAddr := by
    simp only [State.byteAddr, hr.mem_eq, hbuf, hidx]
  cases h with
  | start hp => exact .start (hph.trans hp)
  | address hp => rw [← haddr]; exact .address (hph.trans hp)
  | checkAddress hp => exact .checkAddress (hph.trans hp)
  | transmit hp hw => rw [← hbyte]; exact .transmit (hph.trans hp) (hrw.trans hw)
  | checkByte hp hw => exact .checkByte (hph.trans hp) (hrw.trans hw)
  | receive hp hw => exact .receive (hph.trans hp) (hrw.trans hw)
  | ack hp hw hlast => exact .ack (hph.trans hp) (hrw.trans hw) (by rwa [hidx, hlen])
  | nack hp hw hlast => exact .nack (hph.trans hp) (hrw.trans hw) (by rwa [hidx, hlen])
  | stop hp => exact .stop (hph.trans hp)

theorem Admitted.of_acted (h : Admitted s) (hr : Acted s r) : Admitted r := by
  obtain ⟨a, ha, hr⟩ := hr
  rw [hr]
  cases ha <;> exact h

theorem CurrentUop.phase_ne_idle (h : CurrentUop s i) : s.phase ≠ 0#3 := by
  rcases h.running with hp | hp | hp | hp <;> rw [hp] <;> decide

/-! ### An action -/

theorem ControlSound.exec (h : ControlSound s) (hp : s.phase ≠ 0#3) (hf : fetch s = .run i) (he : exec i s = .next r) :
    ControlSound r := by
  obtain ⟨hc, hperf, hd⟩ := h.performing_of_run hp hf
  have hi := hc.compound
  have hacted := exec_acted hi he
  obtain ⟨ha, hin⟩ := h.admitted hp
  obtain ⟨-, -, hlen, -, -, -, -, hph, hidx, -, -, hres, -⟩ := hacted.sameControl
  obtain ⟨hdata, hstop⟩ := h.ackSettled hi hperf
  have hack := (exec_keepsRest hi he).ackbit
  refine .of_currentUop (ha.of_acted hacted) ?_ (hc.of_acted hacted) (exec_performing hi hperf hd he) ⟨?_, ?_⟩
  · rwa [hph, hidx, hlen]
  · intro h3 hne
    rw [hack hne]
    exact hdata (hph.symm.trans h3) hne
  · intro h4
    have h4s := hph.symm.trans h4
    have hne : i ≠ .checkAck := by
      rintro rfl
      cases hc with
      | checkAddress hp' | checkByte hp' => rw [h4s] at hp'; cases hp'
    rw [hack hne, hres]
    exact hstop h4s

/-- The accepting step: the command is an admitted one and START is at its first action (44_transactions R160). -/
theorem controlSound_latchCommand (hw : s.dlyWait = 0#1) (hwf : (offerNow (encode i) s).wf s.par = true) :
    ControlSound (latchCommand (offerNow (encode i) s) s) := by
  have hcmd : encode i = encode (if rwOf (encode i) = 0#1 then .write (devAddrOf (encode i))
      else .read (devAddrOf (encode i))) := by
    rcases command_of_wf hwf with ⟨a, rfl⟩ | ⟨a, rfl⟩ <;> (clear hwf; revert a; decide)
  obtain ⟨hpins, hbuf⟩ : (offerNow (encode i) s).scl ≠ (offerNow (encode i) s).sda ∧
      (offerNow (encode i) s).buf + (offerNow (encode i) s).len ≤ 2 ^ s.par.addrWidth := by
    simp only [Offer.wf, wfPinsDistinct, wfBufRange, Bool.and_eq_true, bne_iff_ne, decide_eq_true_eq] at hwf
    obtain ⟨⟨-, hdistinct⟩, hrange⟩ := hwf
    exact ⟨hdistinct, hrange⟩
  exact .inr ⟨⟨rfl, hcmd, hpins, hbuf⟩, .inl ⟨rfl, .of_begun rfl (issue_uopWord .start s.noAction) rfl rfl hw⟩⟩

/-! ### The choices of the sequencer -/

/-- The loop test after an ACK. -/
theorem controlSound_payloadLoop {n : Nat} (ha : Admitted s) (hw : s.dlyWait = 0#1) (hack : s.ackbit = 0#1) :
    ControlSound (payloadLoop n s) := by
  rcases payloadLoop_cases n s with ⟨-, h⟩ | ⟨hlt, hrw, h⟩ | ⟨hlt, hrw, h⟩ <;> rw [h]
  · refine .of_currentUop (i := .stop) ha nofun (.stop rfl) (.of_begun rfl (enterStop_uopWord _ _) rfl rfl hw)
      ⟨nofun, fun _ => ⟨nofun, fun h1 => ?_⟩⟩
    exact absurd (hack.symm.trans h1) (by decide)
  · exact .inr ⟨ha, .inr (.inr (.inl ⟨rfl, hlt, fun _ => .inl ⟨.inl ⟨rfl, hw⟩, hack⟩,
      fun h1 => absurd (hrw.symm.trans h1) (by decide)⟩))⟩
  · exact .of_currentUop (i := .rxByte) ha (fun _ => hlt) (.receive rfl hrw)
      (.of_begun rfl (issue_uopWord .rxByte { s with idx := n }) rfl rfl hw) ⟨fun _ _ => hack, nofun⟩

/-- The branch after CHECK_ACK. -/
theorem controlSound_afterCheck {n : Nat} (ha : Admitted s) (hw : s.dlyWait = 0#1) :
    ControlSound (afterCheck n s) := by
  rcases afterCheck_cases n s with ⟨hack, h⟩ | ⟨hack, h⟩ <;> rw [h]
  · exact .of_currentUop (i := .stop) ha nofun (.stop rfl) (.of_begun rfl (enterStop_uopWord _ _) rfl rfl hw)
      ⟨nofun, fun _ => ⟨fun _ => hack, fun _ => rfl⟩⟩
  · exact controlSound_payloadLoop ha hw hack

/-- What the sequencer chooses when micro-op `i` has ended. -/
theorem ControlSound.choice (h : ControlSound s) (hc : CurrentUop s i) (hperf : Performing i s) (hd : s.due = .ended)
    (hr : Choice s r) : ControlSound r := by
  obtain ⟨ha, hin⟩ := h.admitted hc.phase_ne_idle
  obtain ⟨hu, hw⟩ := hperf.ended hd
  obtain ⟨hdata, hstop⟩ := h.ackSettled hc.compound hperf
  have hi {j : Instr} (hj : decodeUop s.uopWord = .ok j) : i = j := by
    rw [hu, decodeUop_encode hc.compound] at hj
    exact Except.ok.inj hj
  cases hr with
  | address =>
    exact .of_currentUop (i := .txByte s.addrByte) ha nofun (.address rfl)
      (.of_begun rfl (enterAddress_uopWord _) rfl rfl hw) ⟨nofun, nofun⟩
  | checkAddress hp =>
    have hp2 : s.phase = 2#3 := phaseOf_eq_some_iff.mp hp
    exact .inr ⟨ha, .inr (.inl ⟨hp2, .inr (.of_begun rfl (issue_uopWord _ _) rfl rfl hw)⟩)⟩
  | addressChecked | byteChecked => exact controlSound_afterCheck ha hw
  | checkByte hp hj =>
    have hp3 : s.phase = 3#3 := phaseOf_eq_some_iff.mp hp
    obtain rfl := hi hj
    cases hc with
    | address hp' => rw [hp3] at hp'; cases hp'
    | transmit _ hrw =>
      exact .of_currentUop (i := .checkAck) ha hin (.checkByte hp3 hrw)
        (.of_begun rfl (issue_uopWord _ _) rfl rfl hw) ⟨fun _ hne => absurd rfl hne, hstop⟩
  | received hp hj =>
    obtain rfl := hi hj
    cases hc with
    | receive hp hrw =>
      exact .inr ⟨ha, .inr (.inr (.inl ⟨hp, hin hp, fun h0 => absurd (hrw.symm.trans h0) (by decide),
        fun _ => ⟨hdata hp nofun, .inr (.inl ⟨rfl, hw⟩)⟩⟩))⟩
  | acknowledged hp hj =>
    have hne : i ≠ .checkAck := by rcases hj.imp hi hi with rfl | rfl <;> nofun
    exact controlSound_payloadLoop ha hw (hdata (phaseOf_eq_some_iff.mp hp) hne)
  | stopped hp hj =>
    have hp4 : s.phase = 4#3 := phaseOf_eq_some_iff.mp hp
    obtain rfl := hi hj
    exact .inr ⟨ha, .inr (.inr (.inr ⟨hp4, .inr ⟨hu, rfl, hw⟩, hstop hp4⟩))⟩

/-! ### The buffer accesses -/

theorem ControlSound.readPayload (h : ControlSound s) (hp : s.phase ≠ 0#3) (hd : s.due = .memRead)
    (he : readPayload s = .next r) : ControlSound r := by
  obtain ⟨hp3, hw⟩ := h.access hp (.inl hd)
  obtain ⟨ha, hin⟩ := h.admitted hp
  obtain ⟨hrw, hack⟩ := h.read hp3 hd
  obtain ⟨-, rfl⟩ := readPayload_next he
  refine .of_currentUop (i := .txByte (readByte s.mem s.byteAddr)) ha hin (.transmit hp3 hrw)
    (.of_begun rfl (issue_uopWord _ s) rfl rfl hw) ⟨fun _ _ => hack, fun h4 => ?_⟩
  rw [show s.phase = 4#3 from h4] at hp3
  cases hp3

theorem ControlSound.writePayload (h : ControlSound s) (hp : s.phase ≠ 0#3) (hd : s.due = .memWrite)
    (he : writePayload s = .next r) : ControlSound r := by
  obtain ⟨hp3, hw⟩ := h.access hp (.inr hd)
  obtain ⟨ha, hin⟩ := h.admitted hp
  obtain ⟨hrw, hack⟩ := h.write hp3 hd
  have hno4 : s.phase ≠ 4#3 := by rw [hp3]; decide
  obtain ⟨-, rfl⟩ := writePayload_next he
  have hsettled (j : Instr) : AckSettled j { s.issue j with
      mem := writeByte s.mem s.byteAddr s.sr
      out := s.out.storeByte s.byteAddr s.sr
      trace := s.trace ++ [.memWrite s.byteAddr s.sr] } := ⟨fun _ _ => hack, fun h4 => absurd h4 hno4⟩
  by_cases hlast : s.idx + 1 = s.len
  · rw [if_pos hlast]
    exact .of_currentUop (i := .sendNack) ha hin (.nack hp3 hrw hlast) (.of_begun rfl (issue_uopWord _ s) rfl rfl hw)
      (hsettled _)
  · rw [if_neg hlast]
    have hmore : s.idx + 1 < s.len := by
      have hlt := hin hp3
      omega
    exact .of_currentUop (i := .sendAck) ha hin (.ack hp3 hrw hmore)
      (.of_begun rfl (issue_uopWord _ s) rfl rfl hw) (hsettled _)

/-! ### A whole step -/

/-- The core's part of a step. -/
theorem ControlSound.coreStep (h : ControlSound s) (hr : CoreStep s r) : ControlSound r := by
  cases hr with
  | reset => exact .inl ⟨rfl, .inl rfl, rfl⟩
  | wait => exact h
  | run i r hf he =>
    rcases fetchedWhen_of_fetch hf with ⟨hp, hcmd⟩ | ⟨hp, -⟩
    · rcases exec_command_next (command_of_decodeCmd hcmd) he with rfl | ⟨hwf, rfl⟩
      · exact h
      · exact controlSound_latchCommand (h.idle hp).2 hwf
    · exact h.exec hp hf he
  | choose r hf he =>
    obtain ⟨hp, hd⟩ := fetchedWhen_of_fetch hf
    obtain ⟨i, hc, hperf⟩ := h.currentUop hp (.inr hd)
    exact h.choice hc hperf hd (sequence_next he)
  | memRead r hf he =>
    obtain ⟨hp, hd⟩ := fetchedWhen_of_fetch hf
    exact h.readPayload hp hd he
  | memWrite r hf he =>
    obtain ⟨hp, hd⟩ := fetchedWhen_of_fetch hf
    exact h.writePayload hp hd he
  | complete hf =>
    obtain ⟨hp, hd⟩ := fetchedWhen_of_fetch hf
    refine .inl ⟨rfl, ?_, (h.complete hp hd).2⟩
    rw [completeCommand_status]
    cases s.result with
    | success => exact .inr (.inl rfl)
    | ackFailure => exact .inr (.inr rfl)

/-- The environment writes no register, and no byte that a running command transmits (20_memory R61). -/
theorem ControlSound.envStep (h : ControlSound s) (hm : Memory.wf s.mem = true) : ControlSound (envStep s) := by
  rcases h with h | ⟨ha, h | h | ⟨hp, hin, hw, hr⟩ | h⟩
  · exact .inl h
  · exact .inr ⟨ha, .inl h⟩
  · exact .inr ⟨ha, .inr (.inl h)⟩
  · have hbyte : readByte (Machine.envStep s).mem s.byteAddr = readByte s.mem s.byteAddr :=
      envStep_readByte_of_busy (busy_of_status ha.1) hm (Nat.le_add_right _ _) (Nat.add_lt_add_left hin _)
    refine .inr ⟨ha, .inr (.inr (.inl ⟨hp, hin, fun hrw => ?_, hr⟩))⟩
    have hword : Performing (.txByte (readByte (Machine.envStep s).mem s.byteAddr)) s =
        Performing (.txByte (readByte s.mem s.byteAddr)) s := by rw [hbyte]
    rcases hw hrw with ⟨hrun | hrun, hack⟩ | hcheck
    · exact .inl ⟨.inl hrun, hack⟩
    · exact .inl ⟨.inr (hword.mpr hrun), hack⟩
    · exact .inr hcheck
  · exact .inr ⟨ha, .inr (.inr (.inr h))⟩

/-! ### Samples of SDA -/

/-- The step lists sample SDA where `sampleAt` says (42_byte_shift R121, 43_ack R140). -/
theorem sampleAt_of_actionEvent {c d k x : Nat} {v w : Bit} (hi : compound i = true) (hk : k < opLength i)
    (h : actionEvent c d i k v = some (.sample x w)) : sampleAt i k = true := by
  cases i with
  | txByte b =>
    simp only [actionEvent] at h
    rw [txTrace_getElem? c d b hk] at h
    have hmod : k % 5 < 5 := Nat.mod_lt k (by decide)
    generalize k % 5 = j at h hmod
    interval_cases j <;> simp [bitEvent] at h
    split at h <;> cases h
  | rxByte =>
    cases k with
    | zero => cases h
    | succ k =>
      simp only [actionEvent] at h
      rw [rxTrace_getElem?_succ c d _ (Nat.lt_of_succ_lt_succ hk)] at h
      have hmod : k % 5 < 5 := Nat.mod_lt k (by decide)
      generalize hj : k % 5 = j at h hmod
      interval_cases j <;> simp at h
      simp only [sampleAt, beq_iff_eq]
      omega
  | checkAck | start | stop | sendAck | sendNack =>
    simp only [opLength] at hk
    interval_cases k <;> cases h <;> rfl
  | write | read | delayHalf | lineHigh | lineLow | lineRead => cases hi

/-- Where a step list samples SDA the block has released it. -/
theorem drivesAt_of_sampleAt {k : Nat} (hi : compound i = true) (h : sampleAt i k = true) :
    (drivesAt i k).2 = some .rel := by
  cases i with
  | rxByte | checkAck =>
    simp only [sampleAt, beq_iff_eq] at h
    exact if_neg (by omega)
  | start | stop | txByte | sendAck | sendNack => cases h
  | write | read | delayHalf | lineHigh | lineLow | lineRead => cases hi

/-- Only an operation samples SDA. -/
theorem exec_of_sample {c : Nat} {v : Bit} (hr : CoreStep s r) (ht : r.trace = s.trace ++ [.sample c v]) :
    ∃ i, fetch s = .run i ∧ exec i s = .next r := by
  cases hr with
  | run i r hf he => exact ⟨i, hf, he⟩
  | reset | wait | complete => simp at ht
  | choose r _ he => simp [(sequence_next he).trace_eq] at ht
  | memRead r _ he => obtain ⟨-, rfl⟩ := readPayload_next he; simp at ht
  | memWrite r _ he => obtain ⟨-, rfl⟩ := writePayload_next he; simp at ht

/-- A step of a micro-op that samples SDA is at a sample of its step list. -/
theorem sampleAt_of_sample {c : Nat} {v : Bit} (hi : compound i = true) (hperf : Performing i s) (hd : s.due = .uop)
    (he : exec i s = .next r) (ht : r.trace = s.trace ++ [.sample c v]) : sampleAt i s.upos = true := by
  obtain ⟨-, hlt, -, hshift⟩ := hperf.running hd
  cases exec_microOpStep hi hshift he with
  | acts h =>
    have hevent := h.event
    rw [List.singleton_inj.mp (List.append_cancel_left (h.trace.symm.trans ht))] at hevent
    exact sampleAt_of_actionEvent hi hlt hevent
  | delayBegins | waits => simp at ht
  | delayEnds h => simp [h.trace] at ht

end Sys2Proof.Safety

namespace Sys2Proof

open Machine Safety

/-- Settles O44: each of the core's seven kinds of step keeps the sequencer consistent, and so does the environment. -/
theorem sequencerStaysConsistent : Obligations.SequencerStaysConsistent := by
  unfold Obligations.SequencerStaysConsistent
  intro s t hf h hst
  obtain ⟨r, hr, rfl⟩ := step_next hst
  exact (h.coreStep hr).envStep (hf.coreStep hr).mem_wf

/-- Settles O41: a sample stands in the step lists of RX_BYTE and CHECK_ACK only, where the block has released SDA. -/
theorem sdaIsReadOnlyWhileReleased : Obligations.SdaIsReadOnlyWhileReleased := by
  unfold Obligations.SdaIsReadOnlyWhileReleased
  intro s t v hs hp hst ht
  obtain ⟨-, hcontrol, hdrives⟩ := hs
  obtain ⟨r, hr, rfl⟩ := step_next hst
  rw [envStep_trace] at ht
  obtain ⟨i, hf, he⟩ := exec_of_sample hr ht
  obtain ⟨hc, hperf, hd⟩ := hcontrol.performing_of_run hp hf
  have hi := hc.compound
  obtain ⟨hat, -⟩ := hdrives hp
  have hrel : s.drv s.sdaRef = .rel :=
    (hat i hd hperf.1).2 _ (drivesAt_of_sampleAt hi (sampleAt_of_sample hi hperf hd he ht))
  refine ⟨hrel, ?_⟩
  rw [(exec_acted hi he).sdaRead_of_sample ht, sdaRead_of_drv, hrel]
  rfl

end Sys2Proof
end

section
/-! No rule reads a register with an unspecified reset value before the running command has written it: two states that agree
on everything else do the same in a step and agree again (10_state R39, R40). -/

namespace Sys2Proof.Safety

open Sys2Proof.Machine

variable {i : Instr} {s t r u : State}

/-! ### The parts of `SameReadable` -/

/-- `t` is `s` but for the registers that a rule may still find unwritten, and the output ports. -/
def SameBase (s t : State) : Prop :=
  ∃ idx result sr bitcnt ackbit out,
    t = { s with idx := idx, result := result, sr := sr, bitcnt := bitcnt, ackbit := ackbit, out := out }

/-- What is readable in every phase. -/
def SameOutside (s t : State) : Prop :=
  t.par = s.par ∧ t.status = s.status ∧ t.phase = s.phase ∧ t.dlyWait = s.dlyWait ∧ t.drvLow = s.drvLow ∧
    t.tcnt = s.tcnt ∧ t.mem = s.mem ∧ t.env = s.env ∧ t.clock = s.clock ∧ t.trace = s.trace

/-- The same actions on the ports, with the same reference, address and data where there is an action. -/
def SameActions (o p : Outputs) : Prop :=
  p.gpioOp = o.gpioOp ∧ p.tmrReset = o.tmrReset ∧ p.memOp = o.memOp ∧ (o.gpioOp ≠ 0b00#2 → p.gpioRef = o.gpioRef) ∧
    (o.memOp ≠ 0b00#2 → p.memAddr = o.memAddr) ∧ (o.memOp = 0b10#2 → p.memWdata = o.memWdata)

/-- Each register that a running command writes late is the same from where the command has written it. -/
structure SameWritten (s t : State) : Prop where
  idx : s.phase = 3#3 → t.idx = s.idx
  result : s.phase = 4#3 → t.result = s.result
  ackbit : s.uopWord = encode .checkAck → (s.due = .ended ∨ 3 < s.upos) → t.ackbit = s.ackbit
  transmit : ∀ b, s.uopWord = encode (.txByte b) → s.due = .uop → s.upos ≠ 0 → t.sr = s.sr ∧ t.bitcnt = s.bitcnt
  receive : s.uopWord = encode .rxByte → s.due = .uop → s.upos ≠ 0 →
    t.bitcnt = s.bitcnt ∧ receivedSoFar t = receivedSoFar s
  received : (s.due = .memWrite ∨ (s.uopWord = encode .rxByte ∧ s.due = .ended)) → t.sr = s.sr

theorem SameReadable.outside (h : SameReadable s t) : SameOutside s t := h.1

theorem SameReadable.actions (h : SameReadable s t) : SameActions s.out t.out := h.2.1

theorem SameBase.of_eq (ho : SameOutside s t)
    (hc : t.cmd = s.cmd ∧ t.len = s.len ∧ t.buf = s.buf ∧ t.sclRef = s.sclRef ∧ t.sdaRef = s.sdaRef ∧ t.uop = s.uop ∧
      t.uopArg = s.uopArg ∧ t.upos = s.upos ∧ t.due = s.due) : SameBase s t := by
  obtain ⟨hpar, hstatus, hphase, hdly, hdrv, htcnt, hmem, henv, hclock, htrace⟩ := ho
  obtain ⟨hcmd, hlen, hbuf, hscl, hsda, huop, harg, hupos, hdue⟩ := hc
  refine ⟨t.idx, t.result, t.sr, t.bitcnt, t.ackbit, t.out, ?_⟩
  rw [← hpar, ← hstatus, ← hphase, ← hdly, ← hdrv, ← htcnt, ← hmem, ← henv, ← hclock, ← htrace, ← hcmd, ← hlen, ← hbuf,
    ← hscl, ← hsda, ← huop, ← harg, ← hupos, ← hdue]

theorem SameReadable.sameBase (h : SameReadable s t) (hp : s.phase ≠ 0#3) : SameBase s t := by
  obtain ⟨ho, -, hrun⟩ := h
  exact .of_eq ho (hrun hp).1

theorem SameBase.phase_eq (h : SameBase s t) : t.phase = s.phase := by obtain ⟨_, _, _, _, _, _, rfl⟩ := h; rfl

theorem SameBase.due_eq (h : SameBase s t) : t.due = s.due := by obtain ⟨_, _, _, _, _, _, rfl⟩ := h; rfl

theorem SameBase.upos_eq (h : SameBase s t) : t.upos = s.upos := by obtain ⟨_, _, _, _, _, _, rfl⟩ := h; rfl

theorem SameBase.uopWord_eq (h : SameBase s t) : t.uopWord = s.uopWord := by obtain ⟨_, _, _, _, _, _, rfl⟩ := h; rfl

theorem SameBase.len_eq (h : SameBase s t) : t.len = s.len := by obtain ⟨_, _, _, _, _, _, rfl⟩ := h; rfl

theorem SameBase.rw_eq (h : SameBase s t) : t.rw = s.rw := by obtain ⟨_, _, _, _, _, _, rfl⟩ := h; rfl

theorem SameBase.sdaRead_eq (h : SameBase s t) : t.sdaRead = s.sdaRead := by obtain ⟨_, _, _, _, _, _, rfl⟩ := h; rfl

theorem SameReadable.written (h : SameReadable s t) (hp : s.phase ≠ 0#3) : SameWritten s t := by
  obtain ⟨-, -, hrun⟩ := h
  obtain ⟨-, hidx, hres, hack, htx, hrx, hsr⟩ := hrun hp
  exact ⟨hidx, hres, hack, htx, hrx, hsr⟩

theorem SameReadable.of_base (hb : SameBase s t) (ho : SameActions s.out t.out) (hw : SameWritten s t) :
    SameReadable s t := by
  obtain ⟨hidx, hres, hack, htx, hrx, hsr⟩ := hw
  obtain ⟨_, _, _, _, _, _, rfl⟩ := hb
  exact ⟨⟨rfl, rfl, rfl, rfl, rfl, rfl, rfl, rfl, rfl, rfl⟩, ho, fun _ =>
    ⟨⟨rfl, rfl, rfl, rfl, rfl, rfl, rfl, rfl, rfl⟩, hidx, hres, hack, htx, hrx, hsr⟩⟩

/-- Between commands only what is readable in every phase matters. -/
theorem SameReadable.of_idle (hp : s.phase = 0#3) (h : SameOutside s t) (ho : SameActions s.out t.out) :
    SameReadable s t := ⟨h, ho, fun hne => absurd hp hne⟩

/-- Where a micro-op has just begun, or a buffer access or `Complete` is due, no register of the sub-blocks matters but the
byte received. -/
theorem SameWritten.of_begun (hdue : s.due ≠ .ended) (hpos : s.upos = 0) (hidx : s.phase = 3#3 → t.idx = s.idx)
    (hres : s.phase = 4#3 → t.result = s.result) (hsr : s.due = .memWrite → t.sr = s.sr) : SameWritten s t := by
  refine ⟨hidx, hres, fun _ h => ?_, fun _ _ _ h => absurd hpos h, fun _ _ h => absurd hpos h, ?_⟩
  · rcases h with h | h
    · exact absurd h hdue
    · omega
  · rintro (h | ⟨-, h⟩)
    · exact hsr h
    · exact absurd h hdue

theorem sameActions_none (o p : Outputs) : SameActions o.none p.none :=
  ⟨rfl, rfl, rfl, fun h => absurd rfl h, fun h => absurd rfl h, nofun⟩

/-- The same events are the same actions on the ports. -/
theorem sameActions_portsAfter (es : List Event) (o p : Outputs) : SameActions (portsAfter es o) (portsAfter es p) := by
  unfold portsAfter
  split
  case h_4 => exact ⟨rfl, rfl, rfl, fun h => absurd rfl h, fun h => absurd rfl h, nofun⟩
  case h_5 => exact sameActions_none o p
  all_goals exact ⟨rfl, rfl, rfl, fun _ => rfl, fun h => absurd rfl h, nofun⟩

/-! ### A step of a micro-op -/

theorem MicroOpStep.actsAt (h : MicroOpStep i s r) (hd : delayAt i s.upos = false) : ∃ e, ActsAt i s e r := by
  cases h with
  | acts h => exact ⟨_, h⟩
  | delayBegins hd' | waits hd' => exact absurd (hd.symm.trans hd') Bool.false_ne_true
  | delayEnds h => exact absurd (hd.symm.trans h.delay) Bool.false_ne_true

theorem MicroOpStep.eq_beginDelay (h : MicroOpStep i s r) (hd : delayAt i s.upos = true) (hw : s.dlyWait = 0#1) :
    r = beginDelay s := by
  cases h with
  | acts h => exact absurd (h.delay.symm.trans hd) Bool.false_ne_true
  | delayBegins => rfl
  | waits _ hw' => exact absurd (hw.symm.trans hw') (by decide)
  | delayEnds h => exact absurd (hw.symm.trans h.waiting) (by decide)

theorem MicroOpStep.eq_noAction (h : MicroOpStep i s r) (hd : delayAt i s.upos = true) (hw : s.dlyWait = 1#1)
    (ht : s.tcnt < s.par.halfTicks) : r = s.noAction := by
  cases h with
  | acts h => exact absurd (h.delay.symm.trans hd) Bool.false_ne_true
  | delayBegins _ hw' => exact absurd (hw'.symm.trans hw) (by decide)
  | waits => rfl
  | delayEnds h => exact absurd h.threshold (by omega)

theorem MicroOpStep.delayEndsAt (h : MicroOpStep i s r) (hd : delayAt i s.upos = true) (hw : s.dlyWait = 1#1)
    (ht : s.par.halfTicks ≤ s.tcnt) : DelayEndsAt i s r := by
  cases h with
  | acts h => exact absurd (h.delay.symm.trans hd) Bool.false_ne_true
  | delayBegins _ hw' => exact absurd (hw'.symm.trans hw) (by decide)
  | waits _ _ ht' => exact absurd ht (by omega)
  | delayEnds h => exact h

/-- Two steps of micro-op `i`, from `s` to `r` and from `t` to `u`, that do the same. -/
inductive SameMove (i : Instr) (s t : State) : State → State → Prop where
  | acts {e : Event} {r u : State} (h : ActsAt i s e r) (h' : ActsAt i t e u) : SameMove i s t r u
  | delayBegins (hd : delayAt i s.upos = true) : SameMove i s t (beginDelay s) (beginDelay t)
  | waits (hd : delayAt i s.upos = true) : SameMove i s t s.noAction t.noAction
  | delayEnds {r u : State} (h : DelayEndsAt i s r) (h' : DelayEndsAt i t u) : SameMove i s t r u

/-- What a micro-op does depends on nothing in which the two states may differ. -/
theorem sameMove_of_base (hb : SameBase s t) (hr : MicroOpStep i s r) (hu : MicroOpStep i t u) :
    SameMove i s t r u := by
  obtain ⟨_, _, _, _, _, _, rfl⟩ := hb
  cases hr with
  | acts h =>
    obtain ⟨e', h'⟩ := hu.actsAt h.delay
    cases h.event.symm.trans h'.event
    exact .acts h h'
  | delayBegins hd hw => rw [hu.eq_beginDelay hd hw]; exact .delayBegins hd
  | waits hd hw ht => rw [hu.eq_noAction hd hw ht]; exact .waits hd
  | delayEnds h => exact .delayEnds h (hu.delayEndsAt h.delay h.waiting h.threshold)

/-- The two steps emit the same event and move the position and the delay alike. -/
theorem SameMove.position (hb : SameBase s t) (h : SameMove i s t r u) :
    u.trace = r.trace ∧ u.upos = r.upos ∧ u.due = r.due ∧ u.dlyWait = r.dlyWait ∧ u.tcnt = r.tcnt := by
  obtain ⟨_, _, _, _, _, _, rfl⟩ := hb
  cases h with
  | acts h h' =>
    exact ⟨h'.trace.trans h.trace.symm, h'.upos.trans h.upos.symm, h'.due.trans h.due.symm,
      h'.dlyWait.trans h.dlyWait.symm, h'.tcnt.trans h.tcnt.symm⟩
  | delayBegins | waits => exact ⟨rfl, rfl, rfl, rfl, rfl⟩
  | delayEnds h h' =>
    have hpos := h.position
    have hpos' := h'.position
    refine ⟨h'.trace.trans h.trace.symm, ?_, ?_, h'.dlyWait.trans h.dlyWait.symm, h'.tcnt.trans h.tcnt.symm⟩
    all_goals
      by_cases hlast : s.upos + 1 = opLength i
      · rw [if_pos hlast] at hpos hpos'
        simp only [hpos, hpos']
      · rw [if_neg hlast] at hpos hpos'
        simp only [hpos, hpos']

/-- After its sample CHECK_ACK has written `ACKBIT` (43_ack R140). -/
theorem SameMove.ackbit (hb : SameBase s t) (hd : s.due = .uop) (hack : 3 < s.upos → t.ackbit = s.ackbit)
    (h : SameMove .checkAck s t r u) (hafter : r.due = .ended ∨ 3 < r.upos) : u.ackbit = r.ackbit := by
  cases h with
  | acts h h' =>
    have hlt : 3 < s.upos + 1 := by
      rcases hafter with hr | hr
      · exact absurd (hr.symm.trans (h.due.trans hd)) nofun
      · rwa [h.upos] at hr
    rw [h.ackbit rfl, h'.ackbit rfl, hb.sdaRead_eq, hb.upos_eq]
    by_cases h3 : s.upos = 3
    · rw [if_pos h3, if_pos h3]
    · rw [if_neg h3, if_neg h3, hack (by omega)]
  | delayBegins | waits =>
    refine hack (hafter.resolve_left fun hr => ?_)
    exact absurd (hr.symm.trans hd) nofun
  | delayEnds h h' =>
    rw [h.ackbit, h'.ackbit]
    refine hack ?_
    have hpos := h.position
    rcases (by simpa [delayAt] using h.delay : s.upos = 2 ∨ s.upos = 5) with h2 | h5
    · rw [if_neg (by rw [h2]; decide), h2, hd] at hpos
      simp [hpos] at hafter
    · omega

theorem byte_ext {x y : Byte} (h : ∀ m < 8, bitOf x m = bitOf y m) : x = y := by
  refine BitVec.eq_of_getLsbD_eq fun m hm => ?_
  have hbit := congrArg (BitVec.getLsbD · 0) (h m hm)
  simpa [bitOf] using hbit

/-- While RX_BYTE runs, the bits received so far are the same (42_byte_shift R121). -/
theorem SameMove.receivedSoFar_eq (hb : SameBase s t) (hlt : s.upos < 41) (hrec : receivedSoFar t = receivedSoFar s)
    (h : SameMove .rxByte s t r u) (hdue : r.due = .uop) : receivedSoFar u = receivedSoFar r := by
  have hupos := hb.upos_eq
  cases h with
  | acts h h' =>
    by_cases hmod : s.upos % 5 = 3
    · have hsda : t.sdaRead = s.sdaRead := by obtain ⟨_, _, _, _, _, _, rfl⟩ := hb; rfl
      have hmod' : t.upos % 5 = 3 := by rw [hupos, hmod]
      refine byte_ext fun m hm => ?_
      rw [bitOf_receivedSoFar_of_sample ((h.sr rfl).trans (if_pos hmod)) h.upos hmod hlt hm,
        bitOf_receivedSoFar_of_sample ((h'.sr rfl).trans (if_pos hmod')) h'.upos hmod' (hupos ▸ hlt) hm,
        hupos, hb.sdaRead_eq, hrec]
    · have hmod' : t.upos % 5 ≠ 3 := by rwa [hupos]
      rw [receivedSoFar_of_no_sample ((h.sr rfl).trans (if_neg hmod)) h.upos hmod,
        receivedSoFar_of_no_sample ((h'.sr rfl).trans (if_neg hmod')) h'.upos hmod', hrec]
  | delayBegins | waits => exact hrec
  | delayEnds h h' =>
    have hmod : s.upos % 5 ≠ 3 := by
      have hd := h.delay
      simp only [delayAt, Bool.or_eq_true, Bool.and_eq_true, beq_iff_eq] at hd
      omega
    have hpos := h.position
    have hpos' := h'.position
    split at hpos
    · exact absurd (hpos.2.symm.trans hdue) nofun
    · rw [hupos, if_neg ‹_›] at hpos'
      rw [receivedSoFar_of_no_sample (h.sr rfl) hpos.1 hmod,
        receivedSoFar_of_no_sample (h'.sr rfl) (hpos'.1.trans (by rw [hupos])) (by rwa [hupos]), hrec]

/-- When RX_BYTE has ended, all eight bits were received, so `SR` is the same. -/
theorem SameMove.received (hb : SameBase s t) (hd : s.due = .uop) (hrec : receivedSoFar t = receivedSoFar s)
    (h : SameMove .rxByte s t r u) (hended : r.due = .ended) : u.sr = r.sr := by
  cases h with
  | acts h => exact absurd (hended.symm.trans (h.due.trans hd)) nofun
  | delayBegins | waits => exact absurd (hended.symm.trans hd) nofun
  | delayEnds h h' =>
    have hpos := h.position
    have hlast : s.upos = 40 := by
      by_contra hne
      rw [if_neg (by simp only [opLength]; omega)] at hpos
      exact absurd (hended.symm.trans (hpos.2.trans hd)) nofun
    have hupos := hb.upos_eq
    rw [h.sr rfl, h'.sr rfl]
    simpa [receivedSoFar, hupos, hlast] using hrec

/-- The two states perform the same micro-op. -/
theorem Performing.of_base (hb : SameBase s t) (hw : SameWritten s t) (h : Performing i s) (hd : s.due = .uop) :
    Performing i t := by
  obtain ⟨hu, hlt, hdw, hs⟩ := h.running hd
  have hshift : ShiftAt i t := by
    obtain ⟨_, _, _, _, _, _, rfl⟩ := hb
    by_cases hk : s.upos = 0
    · exact shiftAt_of_first hk
    cases i with
    | txByte b =>
      obtain ⟨hsr, hbit⟩ := hw.transmit b hu hd hk
      obtain ⟨hsr', hbit'⟩ := hs.resolve_left hk
      exact .inr ⟨hsr.trans hsr', hbit.trans hbit'⟩
    | rxByte => exact .inr ((hw.receive hu hd hk).1.trans (hs.resolve_left hk))
    | _ => trivial
  obtain ⟨_, _, _, _, _, _, rfl⟩ := hb
  exact ⟨hu, .inl ⟨hd, hlt, hdw, hshift⟩⟩

/-- Inside a byte, `SR` and `BITCNT` of TX_BYTE follow from the position, and so does `BITCNT` of RX_BYTE. -/
theorem Performing.shift_eq (h : Performing i s) (h' : Performing i t) (hupos : t.upos = s.upos) (hd : s.due = .uop)
    (hd' : t.due = .uop) (hk : s.upos ≠ 0) :
    (∀ b, i = .txByte b → t.sr = s.sr ∧ t.bitcnt = s.bitcnt) ∧ (i = .rxByte → t.bitcnt = s.bitcnt) := by
  obtain ⟨-, -, -, hs⟩ := h.running hd
  obtain ⟨-, -, -, hs'⟩ := h'.running hd'
  have hk' : t.upos ≠ 0 := by rwa [hupos]
  constructor
  · rintro b rfl
    obtain ⟨hsr, hbit⟩ := hs.resolve_left hk
    obtain ⟨hsr', hbit'⟩ := hs'.resolve_left hk'
    exact ⟨by rw [hsr, hsr', hupos], by rw [hbit, hbit', hupos]⟩
  · rintro rfl
    rw [hs.resolve_left hk, hs'.resolve_left hk', hupos]

/-- Before its first sample RX_BYTE has received nothing. -/
theorem receivedSoFar_eq_of_written (hb : SameBase s t) (hw : SameWritten s t) (hu : s.uopWord = encode .rxByte)
    (hd : s.due = .uop) : receivedSoFar t = receivedSoFar s := by
  by_cases hk : s.upos = 0
  · have hk' := hb.upos_eq.trans hk
    refine byte_ext fun m hm => ?_
    rw [receivedSoFar, receivedSoFar, hk, hk']
    simp [BitVec.shiftLeft_eq_zero]
  · exact (hw.receive hu hd hk).2

/-- One action of the same micro-op, with the same event, from two such states. -/
theorem SameBase.of_acted (hb : SameBase s t) (hr : Acted s r) (hu : Acted t u)
    (hmove : u.trace = r.trace ∧ u.upos = r.upos ∧ u.due = r.due ∧ u.dlyWait = r.dlyWait ∧ u.tcnt = r.tcnt) :
    SameBase r u ∧ SameActions r.out u.out := by
  obtain ⟨htrace, hupos, hdue, hdly, htcnt⟩ := hmove
  obtain ⟨es, hes, hdrv, hout⟩ := hr.events
  obtain ⟨es', hes', hdrv', hout'⟩ := hu.events
  obtain ⟨hpar, hcmd, hlen, hbuf, hscl, hsda, hstatus, hphase, -, huop, harg, -, henv, hclock⟩ := hr.sameControl
  obtain ⟨hpar', hcmd', hlen', hbuf', hscl', hsda', hstatus', hphase', -, huop', harg', -, henv', hclock'⟩ :=
    hu.sameControl
  have hmem := hr.mem_eq
  have hmem' := hu.mem_eq
  obtain ⟨_, _, _, _, _, _, rfl⟩ := hb
  obtain rfl : es' = es := List.append_cancel_left (hes'.symm.trans (htrace.trans hes))
  refine ⟨.of_eq ⟨hpar'.trans hpar.symm, hstatus'.trans hstatus.symm, hphase'.trans hphase.symm, hdly,
    hdrv'.trans hdrv.symm, htcnt, hmem'.trans hmem.symm, henv'.trans henv.symm, hclock'.trans hclock.symm, htrace⟩
    ⟨hcmd'.trans hcmd.symm, hlen'.trans hlen.symm, hbuf'.trans hbuf.symm, hscl'.trans hscl.symm, hsda'.trans hsda.symm,
      huop'.trans huop.symm, harg'.trans harg.symm, hupos, hdue⟩, ?_⟩
  rw [hout, hout']
  exact sameActions_portsAfter _ _ _

/-- A step of the micro-op being performed. -/
theorem exec_sameReadable (hi : compound i = true) (hb : SameBase s t) (hw : SameWritten s t) (h : Performing i s)
    (hd : s.due = .uop) (he : exec i s = .next r) : ∃ u, exec i t = .next u ∧ SameReadable r u := by
  obtain ⟨hword, hlt, -, hs⟩ := h.running hd
  have h' := h.of_base hb hw hd
  have hd' := hb.due_eq.trans hd
  obtain ⟨-, hlt', -, hs'⟩ := h'.running hd'
  obtain ⟨u, hu⟩ := exec_isNext hi hlt'
  have hmove := sameMove_of_base hb (exec_microOpStep hi hs he) (exec_microOpStep hi hs' hu)
  have hpos := hmove.position hb
  obtain ⟨hbase, hports⟩ := hb.of_acted (exec_acted hi he) (exec_acted hi hu) hpos
  obtain ⟨-, hupos, hdue, -⟩ := hpos
  have hr := exec_performing hi h hd he
  have hr' := exec_performing hi h' hd' hu
  have hsame {j : Instr} (hj : compound j = true) (hrj : r.uopWord = encode j) : i = j :=
    encode_injective_of_compound hi hj (hr.1.symm.trans hrj)
  obtain ⟨-, -, -, -, -, -, -, hphase, hidx, -, -, hres, -⟩ := (exec_acted hi he).sameControl
  obtain ⟨-, -, -, -, -, -, -, -, hidx', -, -, hres', -⟩ := (exec_acted hi hu).sameControl
  refine ⟨u, hu, .of_base hbase hports
    { idx := fun h3 => hidx'.trans ((hw.idx (hphase ▸ h3)).trans hidx.symm)
      result := fun h4 => hres'.trans ((hw.result (hphase ▸ h4)).trans hres.symm)
      ackbit := fun hrj hafter => ?_
      transmit := fun b hrj hdr hk => ?_
      receive := fun hrj hdr hk => ?_
      received := fun hafter => ?_ }⟩
  · obtain rfl := hsame rfl hrj
    exact hmove.ackbit hb hd (fun h3 => hw.ackbit hword (.inr h3)) hafter
  · exact (hr.shift_eq hr' hupos hdr (hdue.trans hdr) hk).1 b (hsame rfl hrj)
  · obtain rfl := hsame rfl hrj
    exact ⟨(hr.shift_eq hr' hupos hdr (hdue.trans hdr) hk).2 rfl,
      hmove.receivedSoFar_eq hb hlt (receivedSoFar_eq_of_written hb hw hword hd) hdr⟩
  · rcases hafter with hdr | ⟨hrj, hdr⟩
    · rcases hr.due_cases with hdr' | hdr' <;> rw [hdr] at hdr' <;> cases hdr'
    · obtain rfl := hsame rfl hrj
      exact hmove.received hb hd (receivedSoFar_eq_of_written hb hw hword hd) hdr

/-! ### The choices of the sequencer -/

theorem sequence_of_choice (h : Choice s r) : Machine.sequence s = .next r := by
  unfold Machine.sequence
  cases h with
  | acknowledged hp hu => rcases hu with hu | hu <;> rw [hp, hu] <;> rfl
  | address hp hu | checkAddress hp hu | addressChecked hp hu | checkByte hp hu | byteChecked hp hu | received hp hu
  | stopped hp hu => rw [hp, hu] <;> rfl

theorem payloadLoop_eq_stop {k : Nat} (h : s.len ≤ k) : payloadLoop k s = enterStop .success { s with idx := k } := by
  simp [payloadLoop, show ¬ k < s.len by omega]

theorem payloadLoop_eq_read {k : Nat} (h : k < s.len) (hrw : s.rw = 0#1) :
    payloadLoop k s = { s with idx := k, phase := phaseCode .data, due := .memRead } := by
  simp [payloadLoop, h, hrw]

theorem payloadLoop_eq_receive {k : Nat} (h : k < s.len) (hrw : s.rw = 1#1) :
    payloadLoop k s = { State.issue .rxByte { s with idx := k } with phase := phaseCode .data } := by
  simp [payloadLoop, h, hrw]

/-- The loop test reads only `LEN` and the direction of the command. -/
theorem payloadLoop_sameReadable (hb : SameBase s t) (hpos : s.upos = 0) (k : Nat) :
    SameReadable (payloadLoop k s.noAction) (payloadLoop k t.noAction) := by
  have hlen : t.noAction.len = s.noAction.len := hb.len_eq
  have hdir : t.noAction.rw = s.noAction.rw := hb.rw_eq
  rcases payloadLoop_cases k s.noAction with ⟨hle, h⟩ | ⟨hlt, hrw, h⟩ | ⟨hlt, hrw, h⟩ <;> rw [h]
  · rw [payloadLoop_eq_stop (hlen.le.trans hle)]
    obtain ⟨_, _, _, _, _, _, rfl⟩ := hb
    exact .of_base ⟨_, _, _, _, _, _, rfl⟩ (sameActions_none _ _) (.of_begun nofun rfl nofun (fun _ => rfl) nofun)
  · rw [payloadLoop_eq_read (hlen ▸ hlt) (hdir.trans hrw)]
    obtain ⟨_, _, _, _, _, _, rfl⟩ := hb
    exact .of_base ⟨_, _, _, _, _, _, rfl⟩ (sameActions_none _ _) (.of_begun nofun hpos (fun _ => rfl) nofun nofun)
  · rw [payloadLoop_eq_receive (hlen ▸ hlt) (hdir.trans hrw)]
    obtain ⟨_, _, _, _, _, _, rfl⟩ := hb
    exact .of_base ⟨_, _, _, _, _, _, rfl⟩ (sameActions_none _ _) (.of_begun nofun rfl (fun _ => rfl) nofun nofun)

/-- The branch after CHECK_ACK reads `ACKBIT`, which CHECK_ACK has written. -/
theorem afterCheck_sameReadable (hb : SameBase s t) (hpos : s.upos = 0) (hack : t.ackbit = s.ackbit) (k : Nat) :
    SameReadable (afterCheck k s.noAction) (afterCheck k t.noAction) := by
  have hnack : t.noAction.nacked = s.noAction.nacked := by simp [State.nacked, hack]
  unfold afterCheck
  rw [hnack]
  split
  · obtain ⟨_, _, _, _, _, _, rfl⟩ := hb
    exact .of_base ⟨_, _, _, _, _, _, rfl⟩ (sameActions_none _ _) (.of_begun nofun rfl nofun (fun _ => rfl) nofun)
  · exact payloadLoop_sameReadable hb hpos k

/-- What the sequencer chooses when a micro-op has ended. -/
theorem choice_sameReadable (hb : SameBase s t) (hw : SameWritten s t) (hc : CurrentUop s i) (h : Performing i s)
    (hd : s.due = .ended) (hr : Choice s r) : ∃ u, Choice t u ∧ SameReadable r u := by
  have hpos : s.upos = 0 := by
    obtain ⟨-, ⟨hd', -⟩ | ⟨-, hpos, -⟩⟩ := h
    · rw [hd] at hd'; cases hd'
    · exact hpos
  have hword {j : Instr} (hj : decodeUop s.uopWord = .ok j) : s.uopWord = encode j := by
    have hu := (h.ended hd).1
    rw [hu, decodeUop_encode hc.compound] at hj
    rw [hu, Except.ok.inj hj]
  have hpt {ph : Phase} (hp : phaseOf s.phase = some ph) : phaseOf t.phase = some ph := by rwa [hb.phase_eq]
  have hut {j : Instr} (hj : decodeUop s.uopWord = .ok j) : decodeUop t.uopWord = .ok j := by rwa [hb.uopWord_eq]
  have hnext (hp : phaseOf s.phase = some .data) : nextIdx t = nextIdx s := by
    have hidx := hw.idx (phaseOf_eq_some_iff.mp hp)
    unfold nextIdx
    rw [hidx]
    obtain ⟨_, _, _, _, _, _, rfl⟩ := hb
    rfl
  have hcheck : SameReadable (s.noAction.issue .checkAck) (t.noAction.issue .checkAck) := by
    obtain ⟨_, _, _, _, _, _, rfl⟩ := hb
    exact .of_base ⟨_, _, _, _, _, _, rfl⟩ (sameActions_none _ _) (.of_begun nofun rfl hw.idx hw.result nofun)
  have hack (hj : decodeUop s.uopWord = .ok .checkAck) : t.ackbit = s.ackbit := hw.ackbit (hword hj) (.inl hd)
  cases hr with
  | address hp hj =>
    refine ⟨_, .address (hpt hp) (hut hj), ?_⟩
    obtain ⟨_, _, _, _, _, _, rfl⟩ := hb
    exact .of_base ⟨_, _, _, _, _, _, rfl⟩ (sameActions_none _ _) (.of_begun nofun rfl nofun nofun nofun)
  | checkAddress hp hj => exact ⟨_, .checkAddress (hpt hp) (hut hj), hcheck⟩
  | addressChecked hp hj => exact ⟨_, .addressChecked (hpt hp) (hut hj), afterCheck_sameReadable hb hpos (hack hj) 0⟩
  | checkByte hp hj => exact ⟨_, .checkByte (hpt hp) (hut hj), hcheck⟩
  | byteChecked hp hj =>
    refine ⟨_, .byteChecked (hpt hp) (hut hj), ?_⟩
    rw [hnext hp]
    exact afterCheck_sameReadable hb hpos (hack hj) _
  | received hp hj =>
    refine ⟨_, .received (hpt hp) (hut hj), ?_⟩
    have hsr := hw.received (.inr ⟨hword hj, hd⟩)
    obtain ⟨_, _, _, _, _, _, rfl⟩ := hb
    exact .of_base ⟨_, _, _, _, _, _, rfl⟩ (sameActions_none _ _)
      (.of_begun nofun hpos hw.idx hw.result fun _ => hsr)
  | acknowledged hp hj =>
    refine ⟨_, .acknowledged (hpt hp) (hj.imp hut hut), ?_⟩
    rw [hnext hp]
    exact payloadLoop_sameReadable hb hpos _
  | stopped hp hj =>
    refine ⟨_, .stopped (hpt hp) (hut hj), ?_⟩
    obtain ⟨_, _, _, _, _, _, rfl⟩ := hb
    exact .of_base ⟨_, _, _, _, _, _, rfl⟩ (sameActions_none _ _) (.of_begun nofun hpos hw.idx hw.result nofun)

/-! ### The buffer accesses -/

/-- The read of a payload byte is at `BUF + IDX`, and `IDX` is written in phase DATA. -/
theorem readPayload_sameReadable (hb : SameBase s t) (hw : SameWritten s t) (hp : s.phase = 3#3)
    (he : readPayload s = .next r) : ∃ u, readPayload t = .next u ∧ SameReadable r u := by
  obtain ⟨haddr, rfl⟩ := readPayload_next he
  have hidx := hw.idx hp
  obtain ⟨idx, _, _, _, _, _, rfl⟩ := hb
  obtain rfl : idx = s.idx := hidx
  refine ⟨_, if_pos haddr, .of_base ⟨_, _, _, _, _, _, rfl⟩ ?_ (.of_begun nofun rfl hw.idx hw.result nofun)⟩
  exact ⟨rfl, rfl, rfl, fun h => absurd rfl h, fun _ => rfl, nofun⟩

/-- The write of a received byte is of `SR`, which RX_BYTE has written, at `BUF + IDX`. -/
theorem writePayload_sameReadable (hb : SameBase s t) (hw : SameWritten s t) (hp : s.phase = 3#3)
    (hd : s.due = .memWrite) (he : writePayload s = .next r) : ∃ u, writePayload t = .next u ∧ SameReadable r u := by
  obtain ⟨haddr, rfl⟩ := writePayload_next he
  have hidx := hw.idx hp
  have hsr := hw.received (.inl hd)
  obtain ⟨idx, _, sr, _, _, _, rfl⟩ := hb
  obtain rfl : idx = s.idx := hidx
  obtain rfl : sr = s.sr := hsr
  refine ⟨_, if_pos haddr, .of_base ⟨_, _, _, _, _, _, rfl⟩ ?_ (.of_begun nofun rfl hw.idx hw.result nofun)⟩
  exact ⟨rfl, rfl, rfl, fun h => absurd rfl h, fun _ => rfl, fun _ => rfl⟩

/-! ### Accept -/

theorem SameOutside.now_eq (h : SameOutside s t) : t.now = s.now := by
  obtain ⟨-, -, -, -, -, -, -, henv, hclock, -⟩ := h
  simp only [State.now, henv, hclock]

theorem SameOutside.busy_eq (h : SameOutside s t) : t.busy = s.busy := by
  obtain ⟨-, hstatus, -⟩ := h
  simp only [State.busy, hstatus]

theorem SameOutside.cmdReady_eq (h : SameOutside s t) : t.cmdReady = s.cmdReady := by
  simp only [State.cmdReady, h.busy_eq, h.now_eq]

theorem SameOutside.offerNow_eq (h : SameOutside s t) (w : Word) : offerNow w t = offerNow w s := by
  have hnow := h.now_eq
  obtain ⟨hpar, -⟩ := h
  simp only [offerNow, hnow, hpar]

/-- Accepting a command reads only the ports, and writes every register that a step of START reads. -/
theorem acceptCommand_sameReadable {w : Word} (hp : s.phase = 0#3) (h : SameOutside s t)
    (he : acceptCommand w s = .next r) : ∃ u, acceptCommand w t = .next u ∧ SameReadable r u := by
  have hoffer := h.offerNow_eq w
  have hready := h.cmdReady_eq
  obtain ⟨hpar, hstatus, hphase, hdly, hdrv, htcnt, hmem, henv, hclock, htrace⟩ := h
  rcases acceptCommand_cases w s with ⟨hno, ha⟩ | ⟨-, -, ha⟩ | ⟨hyes, hwf, ha⟩ <;> rw [ha] at he <;> cases he
  · refine ⟨t.noAction, by simp [acceptCommand, hready, hno], ?_⟩
    exact .of_idle hp ⟨hpar, hstatus, hphase, hdly, hdrv, htcnt, hmem, henv, hclock, htrace⟩ (sameActions_none _ _)
  · refine ⟨latchCommand (offerNow w t) t, by simp [acceptCommand, admitted, hready, hoffer, hpar, hyes, hwf], ?_⟩
    rw [hoffer]
    refine .of_base (.of_eq ⟨hpar, rfl, rfl, hdly, hdrv, htcnt, hmem, henv, hclock, htrace⟩
      ⟨rfl, rfl, rfl, rfl, rfl, rfl, rfl, rfl, rfl⟩) (sameActions_none _ _) (.of_begun nofun rfl nofun nofun nofun)

/-! ### A whole step -/

/-- What a step is about depends on nothing that may be unwritten. -/
theorem SameReadable.fetch_eq (h : SameReadable s t) : fetch t = fetch s := by
  have hnow := h.outside.now_eq
  have hready := h.outside.cmdReady_eq
  by_cases hp : s.phase = 0#3
  · obtain ⟨-, -, hphase, -⟩ := h.outside
    have hp' := hphase.trans hp
    simp only [fetch, hnow, hready, hp, hp', phaseOf, if_true]
  · obtain ⟨_, _, _, _, _, _, rfl⟩ := h.sameBase hp
    rfl

/-- The core's part of a step. -/
theorem coreStep_sameReadable (hc : ControlSound s) (h : SameReadable s t) (hr : CoreStep s r) :
    ∃ u, CoreStep t u ∧ SameReadable r u := by
  have hfetch := h.fetch_eq
  cases hr with
  | reset hf =>
    obtain ⟨hpar, -, -, -, hdrv, htcnt, hmem, henv, hclock, htrace⟩ := h.outside
    exact ⟨_, .reset (hfetch.trans hf), .of_idle rfl ⟨hpar, rfl, rfl, rfl, hdrv, htcnt, hmem, henv, hclock, htrace⟩
      ⟨rfl, rfl, rfl, fun h => absurd rfl h, fun h => absurd rfl h, nofun⟩⟩
  | wait hf =>
    exact ⟨_, .wait (hfetch.trans hf), .of_idle (fetchedWhen_of_fetch hf) h.outside (sameActions_none _ _)⟩
  | run i r hf he =>
    have hexec : ∃ u, exec i t = .next u ∧ SameReadable r u := by
      rcases fetchedWhen_of_fetch hf with ⟨hp, hcmd⟩ | ⟨hp, -⟩
      · rcases command_of_decodeCmd hcmd with ⟨a, rfl⟩ | ⟨a, rfl⟩
        · exact acceptCommand_sameReadable hp h.outside he
        · exact acceptCommand_sameReadable hp h.outside he
      · obtain ⟨hcur, hperf, hd⟩ := hc.performing_of_run hp hf
        exact exec_sameReadable hcur.compound (h.sameBase hp) (h.written hp) hperf hd he
    obtain ⟨u, hu, hsame⟩ := hexec
    exact ⟨u, .run i u (hfetch.trans hf) hu, hsame⟩
  | choose r hf he =>
    obtain ⟨hp, hd⟩ := fetchedWhen_of_fetch hf
    obtain ⟨i, hcur, hperf⟩ := hc.currentUop hp (.inr hd)
    obtain ⟨u, hu, hsame⟩ := choice_sameReadable (h.sameBase hp) (h.written hp) hcur hperf hd (sequence_next he)
    exact ⟨u, .choose u (hfetch.trans hf) (sequence_of_choice hu), hsame⟩
  | memRead r hf he =>
    obtain ⟨hp, hd⟩ := fetchedWhen_of_fetch hf
    obtain ⟨u, hu, hsame⟩ := readPayload_sameReadable (h.sameBase hp) (h.written hp) (hc.access hp (.inl hd)).1 he
    exact ⟨u, .memRead u (hfetch.trans hf) hu, hsame⟩
  | memWrite r hf he =>
    obtain ⟨hp, hd⟩ := fetchedWhen_of_fetch hf
    obtain ⟨u, hu, hsame⟩ := writePayload_sameReadable (h.sameBase hp) (h.written hp) (hc.access hp (.inr hd)).1 hd he
    exact ⟨u, .memWrite u (hfetch.trans hf) hu, hsame⟩
  | complete hf =>
    obtain ⟨hp, hd⟩ := fetchedWhen_of_fetch hf
    have hres := (h.written hp).result (hc.complete hp hd).1
    refine ⟨_, .complete (hfetch.trans hf), ?_⟩
    rw [hres]
    obtain ⟨hpar, -, -, hdly, hdrv, htcnt, hmem, henv, hclock, htrace⟩ := h.outside
    refine .of_idle rfl ⟨hpar, rfl, rfl, hdly, hdrv, htcnt, hmem, henv, hclock, ?_⟩ (sameActions_none _ _)
    rw [completeCommand_trace, completeCommand_trace, htrace]

/-- Between commands other agents may act on every byte and pin (20_memory R61, R62). -/
theorem SameOutside.envStep (h : SameOutside s t) (hbusy : s.busy = 0#1) :
    SameOutside (Machine.envStep s) (Machine.envStep t) := by
  have hnow := h.now_eq
  have hbusy' := h.busy_eq.trans hbusy
  obtain ⟨hpar, hstatus, hphase, hdly, hdrv, htcnt, hmem, henv, hclock, htrace⟩ := h
  have hwrite : hostWrite t = hostWrite s := by
    funext m c
    simp only [hostWrite, hostMayWrite, hbusy, hbusy', hpar, BEq.rfl, Bool.true_or]
  have hpin : otherPinAct t = otherPinAct s := by
    funext l c
    simp only [otherPinAct, othersMayDrive, hbusy, hbusy', hpar, BEq.rfl, Bool.true_or]
  refine ⟨hpar, hstatus, hphase, hdly, ?_, ?_, ?_, ?_, ?_, htrace⟩
  · rw [envStep_drvLow, envStep_drvLow, hpin, hnow, hdrv]
  · rw [envStep_tcnt, envStep_tcnt, hpar, hnow, htcnt]
  · rw [envStep_mem, envStep_mem, hwrite, hnow, hmem]
  · rw [envStep_env, envStep_env, henv]
  · rw [envStep_clock, envStep_clock, hclock]

/-- The environment's part of a step: while a command runs it reads the command registers only. -/
theorem SameReadable.envStep (h : SameReadable s t) (hc : ControlSound s) :
    SameReadable (Machine.envStep s) (Machine.envStep t) := by
  have ho := h.actions
  by_cases hp : s.phase = 0#3
  · have hbusy : s.busy = 0#1 := by
      obtain ⟨hstatus, -⟩ := hc.idle hp
      rcases hstatus with hs | hs | hs <;> rw [State.busy, hs] <;> rfl
    exact .of_idle hp (h.outside.envStep hbusy) ho
  · obtain ⟨hidx, hres, hack, htx, hrx, hsr⟩ := h.written hp
    obtain ⟨_, _, _, _, _, _, rfl⟩ := h.sameBase hp
    exact .of_base ⟨_, _, _, _, _, _, rfl⟩ ho ⟨hidx, hres, hack, htx, hrx, hsr⟩

end Sys2Proof.Safety

namespace Sys2Proof

open Machine Safety

/-- Settles O49: each of the core's seven kinds of step reads only what the two states share, and so does the
environment's part. -/
theorem unspecifiedResetValuesAreNeverRead : Obligations.UnspecifiedResetValuesAreNeverRead := by
  unfold Obligations.UnspecifiedResetValuesAreNeverRead
  intro s t s' hs h hst
  obtain ⟨-, hc, -⟩ := hs
  obtain ⟨r, hr, rfl⟩ := step_next hst
  obtain ⟨u, hu, hsame⟩ := coreStep_sameReadable hc h hr
  exact ⟨envStep u, step_of_coreStep hu, hsame.envStep (hc.coreStep hr)⟩

end Sys2Proof
end

section
/-! What a step does to buffer memory: the two accesses of the sequencer, and that every other part of the core leaves
every byte alone (20_memory R51, R52, R66). -/

namespace Sys2Proof.Machine

variable {s r : State}

/-! ### What a step is about -/

theorem fetch_of_memRead (hrst : s.now.rst = false) (hp : s.phase = 3#3) (hd : s.due = .memRead) :
    fetch s = .memRead := by
  simp [fetch, hrst, hp, phaseOf, hd]

theorem fetch_of_memWrite (hrst : s.now.rst = false) (hp : s.phase = 3#3) (hd : s.due = .memWrite) :
    fetch s = .memWrite := by
  simp [fetch, hrst, hp, phaseOf, hd]

/-! ### Buffer memory -/

/-- The core changes buffer memory only where the step is the write of a received byte (20_memory R66). -/
theorem CoreStep.mem_cases (h : CoreStep s r) :
    (fetch s ≠ .memWrite ∧ r.mem = s.mem) ∨ (fetch s = .memWrite ∧ r.mem = writeByte s.mem s.byteAddr s.sr) := by
  cases h with
  | reset hf | wait hf | complete hf => exact .inl ⟨by rw [hf]; nofun, rfl⟩
  | run i r hf he =>
    refine .inl ⟨by rw [hf]; nofun, ?_⟩
    rcases exec_next he with ha | ⟨-, -, rfl⟩
    · exact ha.mem_eq
    · rfl
  | choose r hf he => exact .inl ⟨by rw [hf]; nofun, by cases sequence_next he <;> simp⟩
  | memRead r hf he => obtain ⟨-, rfl⟩ := readPayload_next he; exact .inl ⟨by rw [hf]; nofun, rfl⟩
  | memWrite r hf he => obtain ⟨-, rfl⟩ := writePayload_next he; exact .inr ⟨hf, rfl⟩

/-- No part of the core changes what the environment does from this step on. -/
theorem CoreStep.sameInputs (h : CoreStep s r) : Safety.SameInputs s r := by
  refine ⟨h.par_eq, ?_⟩
  cases h with
  | reset | wait | complete => exact ⟨rfl, rfl⟩
  | run i r _ he =>
    rcases exec_next he with ha | ⟨-, -, rfl⟩
    · obtain ⟨-, -, -, -, -, -, -, -, -, -, -, -, henv, hclock⟩ := ha.sameControl
      exact ⟨henv, hclock⟩
    · exact ⟨rfl, rfl⟩
  | choose r _ he => cases sequence_next he <;> simp
  | memRead r _ he => obtain ⟨-, rfl⟩ := readPayload_next he; exact ⟨rfl, rfl⟩
  | memWrite r _ he => obtain ⟨-, rfl⟩ := writePayload_next he; exact ⟨rfl, rfl⟩

/-- The environment's part of a step is the one of the state before it. -/
theorem CoreStep.now_eq (h : CoreStep s r) : r.now = s.now := by
  obtain ⟨-, henv, hclock⟩ := h.sameInputs
  simp only [State.now, henv, hclock]

end Sys2Proof.Machine

namespace Sys2Proof.Safety

open Sys2Proof.Machine

variable {s : State}

/-- The write of a received byte is due only in a READ, inside the buffer (20_memory R51, 44_transactions R162). -/
theorem ControlSound.write_inBuffer (h : ControlSound s) (hp : s.phase ≠ 0#3) (hd : s.due = .memWrite) :
    s.phase = 3#3 ∧ s.rw = 1#1 ∧ s.idx < s.len := by
  obtain ⟨hp3, -⟩ := h.access hp (.inr hd)
  obtain ⟨hrw, -⟩ := h.write hp3 hd
  obtain ⟨-, hin, -⟩ := h.data hp3
  exact ⟨hp3, hrw, hin⟩

end Sys2Proof.Safety

namespace Sys2Proof

open Machine Safety

/-- Settles O32: the step is the payload read, which begins TX_BYTE of the byte it found. -/
theorem writeReadsThePayloadByte : Obligations.WriteReadsThePayloadByte := by
  unfold Obligations.WriteReadsThePayloadByte
  intro s hrst hp hd ha
  exact ⟨_, step_of_coreStep (.memRead _ (fetch_of_memRead hrst hp hd) (if_pos ha)), ⟨rfl, rfl, rfl⟩, rfl, rfl, rfl,
    rfl, rfl, issue_uopWord _ s, rfl, rfl, fun _ => rfl, fun _ => rfl, ⟨rfl, rfl, rfl⟩, rfl, rfl, rfl, rfl, rfl, rfl, rfl,
    rfl, rfl, rfl, rfl⟩

/-- Settles O33: the step is the payload write, which sets the one byte and begins the answer to it. -/
theorem readWritesTheReceivedByte : Obligations.ReadWritesTheReceivedByte := by
  unfold Obligations.ReadWritesTheReceivedByte
  intro s hrst hp hd ha hm
  exact ⟨_, step_of_coreStep (.memWrite _ (fetch_of_memWrite hrst hp hd) (if_pos ha)), ⟨rfl, rfl, rfl⟩, rfl, rfl, rfl,
    rfl, rfl, rfl, fun _ => readByte_writeByte hm, issue_uopWord _ s, rfl, rfl, fun _ => rfl, ⟨rfl, rfl, rfl⟩, rfl, rfl,
    rfl, rfl, rfl, rfl, rfl, rfl, rfl, rfl, rfl⟩

/-- Settles O38: the core's part of a step leaves every byte or is the payload write, and the environment writes none. -/
theorem onlyAReadWritesBufferMemory : Obligations.OnlyAReadWritesBufferMemory := by
  unfold Obligations.OnlyAReadWritesBufferMemory
  intro s t hs hnone hst
  obtain ⟨hfits, hcontrol, -⟩ := hs
  obtain ⟨r, hr, rfl⟩ := step_next hst
  have hmem : (envStep r).mem = r.mem := by rw [envStep_mem, hr.now_eq, hnone, List.foldl_nil]
  rcases hr.mem_cases with ⟨-, hsame⟩ | ⟨hf, hwrite⟩
  · exact .inl fun a => by rw [hmem, hsame]
  · obtain ⟨hp, hd⟩ := fetchedWhen_of_fetch hf
    obtain ⟨hp3, hrw, hin⟩ := hcontrol.write_inBuffer hp hd
    refine .inr ⟨hp3, hrw, hd, Nat.le_add_right _ _, Nat.add_lt_add_left hin _, fun a => ?_⟩
    rw [hmem, hwrite]
    exact readByte_writeByte hfits.mem_wf

end Sys2Proof
end

section
/-! The events of a step: at most one, naming the command's pins only, and all that a step does to the drive states
(20_memory R60, 40_delay_and_lines R92 to R96). -/

namespace Sys2Proof.Machine

variable {s r : State}

/-- The events `es` are all that the core did to the trace and to the pins from `s` to `r`: at most one event, which names
only `SCL_REF` and `SDA_REF`, and the drive state it sets (40_delay_and_lines R92 to R96). -/
structure Emits (es : List Event) (s r : State) : Prop where
  trace : r.trace = s.trace ++ es
  drvLow : r.drvLow = drivenAfter es s.drvLow
  atMostOne : es.length ≤ 1
  names : ∀ e ∈ es, Safety.NamesOnly s.sclRef s.sdaRef e

theorem Emits.nothing (ht : r.trace = s.trace) (hd : r.drvLow = s.drvLow) : Emits [] s r :=
  ⟨by rw [ht, List.append_nil], hd, Nat.zero_le 1, nofun⟩

theorem Emits.one {e : Event} (ht : r.trace = s.trace ++ [e]) (hd : r.drvLow = drivenAfter [e] s.drvLow)
    (hn : Safety.NamesOnly s.sclRef s.sdaRef e) : Emits [e] s r :=
  ⟨ht, hd, le_refl 1, fun _ he => List.mem_singleton.mp he ▸ hn⟩

theorem lineRef_names (l : Line) (s : State) : s.lineRef l = s.sclRef ∨ s.lineRef l = s.sdaRef := by
  cases l with
  | scl => exact .inl rfl
  | sda => exact .inr rfl

/-- An action has one event or none (40_delay_and_lines R96). -/
theorem Acted.emits (h : Acted s r) : ∃ es, Emits es s r := by
  obtain ⟨a, ha, hr⟩ := h
  rw [hr]
  cases ha with
  | high l => exact ⟨_, .one rfl rfl (lineRef_names l s)⟩
  | low l => exact ⟨_, .one rfl rfl (lineRef_names l s)⟩
  | read => exact ⟨_, .one rfl rfl rfl⟩
  | beginDelay => exact ⟨_, .one rfl rfl trivial⟩
  | endDelay | none => exact ⟨_, .nothing rfl rfl⟩

/-- The core's part of a step has one event or none (20_memory R60). -/
theorem CoreStep.emits (h : CoreStep s r) : ∃ es, Emits es s r := by
  cases h with
  | reset | wait => exact ⟨_, .nothing rfl rfl⟩
  | complete => exact ⟨_, .one rfl rfl trivial⟩
  | run i r _ he =>
    rcases exec_next he with ha | ⟨-, -, rfl⟩
    · exact ha.emits
    · exact ⟨_, .nothing rfl rfl⟩
  | choose r _ he =>
    have hc := sequence_next he
    exact ⟨_, .nothing hc.trace_eq (by cases hc <;> simp)⟩
  | memRead r _ he => obtain ⟨-, rfl⟩ := readPayload_next he; exact ⟨_, .one rfl rfl trivial⟩
  | memWrite r _ he => obtain ⟨-, rfl⟩ := writePayload_next he; exact ⟨_, .one rfl rfl trivial⟩

/-- A pin takes the drive state of the line action on it and otherwise keeps its own (40_delay_and_lines R92, R93). -/
theorem Emits.drv_eq {es : List Event} (h : Emits es s r) (c : Nat) :
    r.drv c = if r.trace = s.trace ++ [.high c] then .rel
      else if r.trace = s.trace ++ [.low c] then .low else s.drv c := by
  rw [h.trace]
  simp only [List.append_cancel_left_eq, State.drv, h.drvLow]
  unfold drivenAfter
  split
  · rename_i k
    rw [drivenLow_setDrive]
    rcases eq_or_ne c k with rfl | hk
    · simp
    · simp [hk, hk.symm]
  · rename_i k
    rw [drivenLow_setDrive]
    rcases eq_or_ne c k with rfl | hk
    · simp
    · simp [hk, hk.symm]
  · rename_i hhigh hlow
    rw [if_neg (hhigh c), if_neg (hlow c)]

/-- The core drove no line from `s` to `r`. -/
def DrivesNoLine (s r : State) : Prop :=
  ∀ c, r.trace ≠ s.trace ++ [.high c] ∧ r.trace ≠ s.trace ++ [.low c]

theorem DrivesNoLine.drv_eq {es : List Event} (hno : DrivesNoLine s r) (h : Emits es s r) (c : Nat) :
    r.drv c = s.drv c := by
  rw [h.drv_eq, if_neg (hno c).1, if_neg (hno c).2]

theorem DrivesNoLine.of_silent (ht : r.trace = s.trace) : DrivesNoLine s r := fun c => by simp [ht]

/-- Only an action of an operation drives a line. -/
theorem CoreStep.drivesNoLine_of_due (h : CoreStep s r) (hp : s.phase ≠ 0#3) (hd : s.due ≠ .uop) : DrivesNoLine s r := by
  cases h with
  | reset | wait => exact .of_silent rfl
  | complete => exact fun c => by simp
  | run i r hf he =>
    rcases fetchedWhen_of_fetch hf with ⟨h0, -⟩ | ⟨-, hrun, -⟩
    · exact absurd h0 hp
    · exact absurd hrun hd
  | choose r _ he => exact .of_silent (sequence_next he).trace_eq
  | memRead r _ he => obtain ⟨-, rfl⟩ := readPayload_next he; exact fun c => by simp
  | memWrite r _ he => obtain ⟨-, rfl⟩ := writePayload_next he; exact fun c => by simp

end Sys2Proof.Machine

namespace Sys2Proof

open Machine Safety

/-- Settles O40: each of the core's seven kinds of step has one event or none, and the environment has none. -/
theorem oneEventAStepOnTheCommandsPins : Obligations.OneEventAStepOnTheCommandsPins := by
  unfold Obligations.OneEventAStepOnTheCommandsPins
  intro s t hst
  obtain ⟨r, hr, rfl⟩ := step_next hst
  obtain ⟨es, hes⟩ := hr.emits
  exact ⟨es, hes.trace, hes.atMostOne, hes.names⟩

end Sys2Proof
end

section
/-! From accept to `Complete` the buffer bytes and the two pins belong to the command: what a step does to them is what the
core does to them (20_memory R61, R62). -/

namespace Sys2Proof.Machine

variable {s r : State}

/-- A running command stays busy until `Complete` or reset (10_state R26). -/
theorem CoreStep.status_eq (h : CoreStep s r) (hrst : s.now.rst = false) (hp : s.phase ≠ 0#3) (hd : s.due ≠ .complete) :
    r.status = s.status := by
  cases h with
  | reset hf => exact absurd (hrst.symm.trans (fetchedWhen_of_fetch hf)) Bool.false_ne_true
  | wait => rfl
  | complete hf => exact absurd (fetchedWhen_of_fetch hf).2 hd
  | run i r hf he =>
    rcases fetchedWhen_of_fetch hf with ⟨h0, -⟩ | ⟨-, -, hu⟩
    · exact absurd h0 hp
    · exact (exec_acted_of_uop hu he).status_eq
  | choose r _ he => exact (sequence_next he).status_eq
  | memRead r _ he => obtain ⟨-, rfl⟩ := readPayload_next he; rfl
  | memWrite r _ he => obtain ⟨-, rfl⟩ := writePayload_next he; rfl

/-- From IDLE a command can only begin by being latched (44_transactions R160). -/
theorem CoreStep.latched (h : CoreStep s r) (hp : s.phase = 0#3) (hr : r.phase ≠ 0#3) : ∃ o, r = latchCommand o s := by
  cases h with
  | reset | complete => exact absurd rfl hr
  | wait => exact absurd hp hr
  | run i r hf he =>
    rcases exec_next he with ha | ⟨-, -, rfl⟩
    · exact absurd (ha.phase_eq.trans hp) hr
    · exact ⟨_, rfl⟩
  | choose r hf | memRead r hf | memWrite r hf => exact absurd hp (fetchedWhen_of_fetch hf).1

end Sys2Proof.Machine

namespace Sys2Proof.Safety

open Sys2Proof.Machine

variable {s r t : State} {i : Instr}

/-! ### Delays and samples drive no line -/

/-- The decoder reads every micro-op back from its word where the operation delays or samples (30_encoding R78). -/
theorem decodeUop_encode_of_passive {k : Nat} (h : delayAt i k = true ∨ sampleAt i k = true) :
    decodeUop (encode i) = .ok i := by
  cases i with
  | start | stop | txByte | rxByte | checkAck | sendAck | sendNack => exact decodeUop_encode rfl
  | delayHalf | lineRead => decide
  | write | read | lineHigh | lineLow => simp [delayAt, sampleAt] at h

/-- Where a step list samples SDA its event is a sample (42_byte_shift R121, 43_ack R140). -/
theorem actionEvent_of_sampleAt {c d k : Nat} {v : Bit} (hi : compound i = true) (hk : k < opLength i)
    (h : sampleAt i k = true) : ∃ w, actionEvent c d i k v = some (.sample d w) := by
  cases i with
  | rxByte =>
    simp only [sampleAt, beq_iff_eq] at h
    obtain ⟨n, rfl⟩ : ∃ n, k = n + 1 := Nat.exists_eq_succ_of_ne_zero (by omega)
    have hevent := rxTrace_getElem?_succ c d (if v = 1#1 then 0xFF#8 else 0x00#8) (Nat.lt_of_succ_lt_succ hk)
    rw [show n % 5 = 2 by omega] at hevent
    exact ⟨_, hevent⟩
  | checkAck =>
    obtain rfl : k = 3 := by simpa [sampleAt] using h
    exact ⟨v, rfl⟩
  | start | stop | txByte | sendAck | sendNack => cases h
  | write | read | delayHalf | lineHigh | lineLow | lineRead => cases hi

/-- A step of a micro-op at one of its delays or samples drives no line. -/
theorem drivesNoLine_of_passive (hi : compound i = true) (hperf : Performing i s) (hd : s.due = .uop)
    (he : exec i s = .next r) (h : delayAt i s.upos = true ∨ sampleAt i s.upos = true) : DrivesNoLine s r := by
  obtain ⟨-, hlt, -, hshift⟩ := hperf.running hd
  cases exec_microOpStep hi hshift he with
  | acts hact =>
    obtain ⟨w, hevent⟩ := actionEvent_of_sampleAt (c := s.sclRef) (d := s.sdaRef) (v := s.sdaRead) hi hlt
      (h.resolve_left fun hdelay => Bool.false_ne_true (hact.delay.symm.trans hdelay))
    obtain rfl := Option.some.inj (hevent.symm.trans hact.event)
    exact fun c => by simp [hact.trace]
  | delayBegins => exact fun c => by simp [beginDelay]
  | waits => exact .of_silent rfl
  | delayEnds hend => exact .of_silent hend.trace

/-- While a command runs, a step in which no action is due, or at a delay or a sample, drives no line. -/
theorem ControlSound.drivesNoLine (h : ControlSound s) (hp : s.phase ≠ 0#3) (hr : CoreStep s r)
    (hat : s.due ≠ .uop ∨ ∃ i, s.uopWord = encode i ∧ (delayAt i s.upos = true ∨ sampleAt i s.upos = true)) :
    DrivesNoLine s r := by
  by_cases hd : s.due = .uop
  · obtain ⟨j, hu, hpassive⟩ := hat.resolve_left fun hne => hne hd
    cases hr with
    | run i r hf he =>
      obtain ⟨hc, hperf, -⟩ := h.performing_of_run hp hf
      have hdec := decodeUop_encode hc.compound
      rw [← hperf.1, hu, decodeUop_encode_of_passive hpassive] at hdec
      obtain rfl := Except.ok.inj hdec
      exact drivesNoLine_of_passive hc.compound hperf hd he hpassive
    | reset | wait => exact .of_silent rfl
    | complete hf | choose r hf | memRead r hf | memWrite r hf =>
      have hdue := (fetchedWhen_of_fetch hf).2
      rw [hd] at hdue
      cases hdue
  · exact hr.drivesNoLine_of_due hp hd

/-! ### The environment and the buffer bytes -/

/-- After the core's part of a step of a command the command is still busy on its own buffer and pins. -/
theorem ControlSound.stillBusy (h : ControlSound s) (hrst : s.now.rst = false) (hp : s.phase ≠ 0#3)
    (hd : s.due ≠ .complete) (hr : CoreStep s r) : r.busy = 1#1 := by
  obtain ⟨⟨hstatus, -⟩, -⟩ := h.admitted hp
  exact busy_of_status ((hr.status_eq hrst hp hd).trans hstatus)

/-- While a command runs a buffer byte after the step is the one the core left (20_memory R61). -/
theorem Sound.readByte_envStep (h : Sound s) (hrst : s.now.rst = false) (hp : s.phase ≠ 0#3) (hd : s.due ≠ .complete)
    (hr : CoreStep s r) {a : Nat} (h1 : s.buf ≤ a) (h2 : a < s.buf + s.len) :
    readByte (envStep r).mem a = readByte r.mem a := by
  obtain ⟨hfits, hcontrol, -⟩ := h
  obtain ⟨-, hlen, hbuf, -⟩ := hr.sameCommand hrst hp
  exact envStep_readByte_of_busy (hcontrol.stillBusy hrst hp hd hr) (hfits.coreStep hr).mem_wf (by rwa [hbuf])
    (by rwa [hbuf, hlen])

/-- While a command runs SCL and SDA after the step have the drive states the core left (20_memory R62). -/
theorem Sound.drv_envStep (h : Sound s) (hrst : s.now.rst = false) (hp : s.phase ≠ 0#3) (hd : s.due ≠ .complete)
    (hr : CoreStep s r) {c : Nat} (hc : c = s.sclRef ∨ c = s.sdaRef) : (envStep r).drv c = r.drv c := by
  obtain ⟨-, hcontrol, -⟩ := h
  obtain ⟨-, -, -, hscl, hsda⟩ := hr.sameCommand hrst hp
  exact envStep_drv_of_busy (hcontrol.stillBusy hrst hp hd hr) (by rwa [hscl, hsda])

/-! ### A whole step -/

/-- In every step of a command a buffer byte stays, unless it is the one the core writes, which becomes `SR`. -/
theorem buffer_of_step (hs : Sound s) (hrst : s.now.rst = false) (hp : s.phase ≠ 0#3) (hd : s.due ≠ .complete)
    (hst : step s = .next t) :
    (∀ a, s.buf ≤ a → a < s.buf + s.len → (s.due = .memWrite → a ≠ s.buf + s.idx) →
      readByte t.mem a = readByte s.mem a) ∧
    (s.due = .memWrite → readByte t.mem (s.buf + s.idx) = s.sr) := by
  obtain ⟨hfits, hcontrol, -⟩ := id hs
  obtain ⟨r, hr, rfl⟩ := step_next hst
  have henv (a : Nat) := hs.readByte_envStep hrst hp hd hr (a := a)
  rcases hr.mem_cases with ⟨hf, hsame⟩ | ⟨hf, hwrite⟩
  · refine ⟨fun a h1 h2 _ => by rw [henv a h1 h2, hsame], fun hw => absurd ?_ hf⟩
    exact fetch_of_memWrite hrst (hcontrol.write_inBuffer hp hw).1 hw
  · obtain ⟨-, hw⟩ := fetchedWhen_of_fetch hf
    obtain ⟨-, -, hin⟩ := hcontrol.write_inBuffer hp hw
    refine ⟨fun a h1 h2 hne => ?_, fun _ => ?_⟩
    · rw [henv a h1 h2, hwrite, readByte_writeByte hfits.mem_wf]
      exact if_neg (hne hw)
    · rw [henv _ (Nat.le_add_right _ _) (Nat.add_lt_add_left hin _), hwrite, readByte_writeByte hfits.mem_wf]
      exact if_pos rfl

/-- In every step of a command each of its pins takes the drive state of the step's own line action or stays. -/
theorem pins_of_step (hs : Sound s) (hrst : s.now.rst = false) (hp : s.phase ≠ 0#3) (hd : s.due ≠ .complete)
    (hst : step s = .next t) :
    (∀ r, r = s.sclRef ∨ r = s.sdaRef →
      t.drv r = if t.trace = s.trace ++ [.high r] then .rel
        else if t.trace = s.trace ++ [.low r] then .low else s.drv r) ∧
    ((s.due ≠ .uop ∨ ∃ i, s.uopWord = encode i ∧ (delayAt i s.upos = true ∨ sampleAt i s.upos = true)) →
      t.drv s.sclRef = s.drv s.sclRef ∧ t.drv s.sdaRef = s.drv s.sdaRef) := by
  obtain ⟨-, hcontrol, -⟩ := id hs
  obtain ⟨r, hr, rfl⟩ := step_next hst
  obtain ⟨es, hes⟩ := hr.emits
  have henv (c : Nat) := hs.drv_envStep hrst hp hd hr (c := c)
  refine ⟨fun c hc => (henv c hc).trans (hes.drv_eq c), fun hat => ?_⟩
  have hno := hcontrol.drivesNoLine hp hr hat
  exact ⟨(henv _ (.inl rfl)).trans (hno.drv_eq hes _), (henv _ (.inr rfl)).trans (hno.drv_eq hes _)⟩

/-- In the accepting step the bytes of the new command's buffer and the drive states of its pins stay. -/
theorem accept_keeps_buffer_and_pins (hs : Sound s) (hp : s.phase = 0#3) (hst : step s = .next t) (ht : t.phase ≠ 0#3) :
    (∀ a, t.buf ≤ a → a < t.buf + t.len → readByte t.mem a = readByte s.mem a) ∧
    t.drv t.sclRef = s.drv t.sclRef ∧ t.drv t.sdaRef = s.drv t.sdaRef := by
  obtain ⟨hfits, -, -⟩ := hs
  obtain ⟨r, hr, rfl⟩ := step_next hst
  obtain ⟨o, rfl⟩ := hr.latched hp ht
  have hbusy : (latchCommand o s).busy = 1#1 := busy_of_status rfl
  exact ⟨fun a h1 h2 => envStep_readByte_of_busy hbusy hfits.mem_wf h1 h2, envStep_drv_of_busy hbusy (.inl rfl),
    envStep_drv_of_busy hbusy (.inr rfl)⟩

end Sys2Proof.Safety

namespace Sys2Proof

open Machine Safety

/-- Settles O39: what a step does to the buffer and the two pins is what the core does, and the core does it by the
payload write and by line actions only. -/
theorem bufferAndPinsAreExclusive : Obligations.BufferAndPinsAreExclusive := by
  unfold Obligations.BufferAndPinsAreExclusive
  refine ⟨fun s t hs hrst hp hd hst => ?_, fun s t hs _ hp hst ht => accept_keeps_buffer_and_pins hs hp hst ht⟩
  obtain ⟨hother, hwritten⟩ := buffer_of_step hs hrst hp hd hst
  exact ⟨hother, hwritten, pins_of_step hs hrst hp hd hst⟩

end Sys2Proof
end

section
/-! What the core reads of the environment: while a command runs, the reset input and the level of SDA only, and nothing
that the host offers (10_state R34, R36, 20_memory R64). -/

namespace Sys2Proof.Machine

variable {s : State} {i : Instr}

/-! ### The same state in another environment -/

/-- The state with `l` for what the environment does in the coming steps. -/
abbrev State.inEnv (s : State) (l : List Inputs) : State := { s with env := l }

theorem State.inEnv_uopWord (s : State) (l : List Inputs) : (s.inEnv l).uopWord = s.uopWord := rfl

/-- The answer with its next state in the environment `l`. -/
def answerInEnv (l : List Inputs) : Answer → Answer
  | .next s => .next (s.inEnv l)
  | .fault f => .fault f
  | .refused r => .refused r

/-- `f` neither reads nor changes what the environment does. -/
def IgnoresEnv (f : State → State) : Prop := ∀ s l, f (s.inEnv l) = (f s).inEnv l

/-- `f` reads of the environment the level of SDA only, and changes nothing of it. -/
def ReadsOnlySda (f : State → Answer) : Prop :=
  ∀ s l, (s.inEnv l).sdaRead = s.sdaRead → f (s.inEnv l) = answerInEnv l (f s)

theorem IgnoresEnv.next {f : State → State} (h : IgnoresEnv f) (s : State) (l : List Inputs) :
    (.next (f (s.inEnv l)) : Answer) = answerInEnv l (.next (f s)) := congrArg Host.Outcome.next (h s l)

/-! ### Parts of an action -/

theorem endBit_ignoresEnv : IgnoresEnv endBit := fun s l => by
  simp only [endBit]
  split_ifs <;> rfl

theorem endTxBit_ignoresEnv : IgnoresEnv endTxBit := fun s l => endBit_ignoresEnv (shiftIn 0#1 s) l

theorem driveBit_ignoresEnv : IgnoresEnv driveBit := fun s l => by
  simp only [driveBit]
  split_ifs <;> rfl

theorem delayStep_ignoresEnv {fin : State → State} (h : IgnoresEnv fin) : IgnoresEnv (delayStep fin) := fun s l => by
  unfold delayStep
  change (if s.dlyWait = 0#1 then beginDelay (s.inEnv l)
    else if s.delayOver then fin (endDelay (s.inEnv l)) else s.noAction.inEnv l) = _
  split_ifs
  · rfl
  · exact h (endDelay s) l
  · rfl

theorem delayStep_nextPos_ignoresEnv : IgnoresEnv (delayStep State.nextPos) := delayStep_ignoresEnv fun _ _ => rfl

theorem delayStep_endUop_ignoresEnv : IgnoresEnv (delayStep State.endUop) := delayStep_ignoresEnv fun _ _ => rfl

theorem readSda_inEnv {l : List Inputs} (h : (s.inEnv l).sdaRead = s.sdaRead) :
    readSda (s.inEnv l) = (readSda s).inEnv l := by
  simp only [readSda, h]

theorem sampleAck_inEnv {l : List Inputs} (h : (s.inEnv l).sdaRead = s.sdaRead) :
    sampleAck (s.inEnv l) = (sampleAck s).inEnv l := by
  simp only [sampleAck, readSda, h]

theorem sampleBit_inEnv {l : List Inputs} (h : (s.inEnv l).sdaRead = s.sdaRead) :
    sampleBit (s.inEnv l) = (sampleBit s).inEnv l := by
  simp only [sampleBit, readSda, h]
  rfl

/-! ### The operations -/

theorem execTxByte_readsOnlySda (b : Byte) : ReadsOnlySda (execTxByte b) := fun s l _ => by
  simp only [execTxByte]
  split_ifs
  · rfl
  · exact congrArg (Host.Outcome.next ∘ State.nextPos) (driveBit_ignoresEnv (loadTx b s) l)
  split
  · exact congrArg (Host.Outcome.next ∘ State.nextPos) (driveBit_ignoresEnv s l)
  · rfl
  · exact delayStep_nextPos_ignoresEnv.next s l
  · rfl
  · exact (delayStep_ignoresEnv endTxBit_ignoresEnv).next s l

theorem execRxByte_readsOnlySda : ReadsOnlySda execRxByte := fun s l h => by
  simp only [execRxByte]
  split_ifs
  · rfl
  · rfl
  split
  · rfl
  · exact delayStep_nextPos_ignoresEnv.next s l
  · rw [sampleBit_inEnv h]; rfl
  · rfl
  · exact (delayStep_ignoresEnv endBit_ignoresEnv).next s l

/-- A micro-op reads of the environment the level of SDA only (40_delay_and_lines R95). -/
theorem exec_readsOnlySda {w : Word} (hu : decodeUop w = .ok i) : ReadsOnlySda (exec i) := by
  obtain ⟨hwrite, hread⟩ := decodeUop_ne_command hu
  cases i with
  | write a => exact absurd rfl (hwrite a)
  | read a => exact absurd rfl (hread a)
  | delayHalf => exact fun s l _ => delayStep_endUop_ignoresEnv.next s l
  | lineHigh | lineLow => exact fun _ _ _ => rfl
  | lineRead => exact fun s l h => congrArg (Host.Outcome.next ∘ State.endUop) (readSda_inEnv h)
  | txByte b => exact execTxByte_readsOnlySda b
  | rxByte => exact execRxByte_readsOnlySda
  | start | stop =>
    intro s l _
    simp only [exec, execStart, execStop]
    split
    case h_3 | h_5 => exact delayStep_nextPos_ignoresEnv.next s l
    case h_7 => exact delayStep_endUop_ignoresEnv.next s l
    all_goals rfl
  | checkAck =>
    intro s l h
    simp only [exec, execCheckAck]
    split
    case h_3 => exact delayStep_nextPos_ignoresEnv.next s l
    case h_4 => rw [sampleAck_inEnv h]; rfl
    case h_6 => exact delayStep_endUop_ignoresEnv.next s l
    all_goals rfl
  | sendAck =>
    intro s l _
    simp only [exec, execSendAck]
    split
    case h_3 => exact delayStep_nextPos_ignoresEnv.next s l
    case h_6 => exact delayStep_endUop_ignoresEnv.next s l
    all_goals rfl
  | sendNack =>
    intro s l _
    simp only [exec, execSendNack]
    split
    case h_3 => exact delayStep_nextPos_ignoresEnv.next s l
    case h_5 => exact delayStep_endUop_ignoresEnv.next s l
    all_goals rfl

/-! ### The sequencer -/

theorem payloadLoop_ignoresEnv (k : Nat) : IgnoresEnv (payloadLoop k) := fun s l => by
  rcases payloadLoop_cases k s with ⟨hk, h⟩ | ⟨hk, hrw, h⟩ | ⟨hk, hrw, h⟩ <;> rw [h]
  · exact Safety.payloadLoop_eq_stop hk
  · exact Safety.payloadLoop_eq_read hk hrw
  · exact Safety.payloadLoop_eq_receive hk hrw

theorem afterCheck_ignoresEnv (k : Nat) : IgnoresEnv (afterCheck k) := fun s l => by
  unfold afterCheck
  change (if s.nacked then (enterStop .ackFailure s).inEnv l else payloadLoop k (s.inEnv l)) = _
  rw [payloadLoop_ignoresEnv k s l]
  split_ifs <;> rfl

theorem sequence_readsOnlySda : ReadsOnlySda sequence := fun s l _ => by
  simp only [sequence, State.inEnv_uopWord]
  split
  case h_3 => exact (afterCheck_ignoresEnv 0).next s.noAction l
  case h_5 => exact (afterCheck_ignoresEnv (nextIdx s)).next s.noAction l
  case h_7 | h_8 => exact (payloadLoop_ignoresEnv (nextIdx s)).next s.noAction l
  all_goals rfl

theorem readPayload_readsOnlySda : ReadsOnlySda readPayload := fun s l _ => by
  unfold readPayload
  by_cases h : s.byteAddr < 2 ^ s.par.addrWidth
  · rw [if_pos h]
    exact if_pos h
  · rw [if_neg h]
    exact if_neg h

theorem writePayload_readsOnlySda : ReadsOnlySda writePayload := fun s l _ => by
  unfold writePayload
  by_cases h : s.byteAddr < 2 ^ s.par.addrWidth
  · rw [if_pos h]
    exact if_pos h
  · rw [if_neg h]
    exact if_neg h

/-! ### A whole step -/

/-- While a command runs, what a step is about depends of the environment on the reset input only. -/
theorem fetch_inEnv {l : List Inputs} (hp : s.phase ≠ 0#3) (hrst : (s.inEnv l).now.rst = s.now.rst) :
    fetch (s.inEnv l) = fetch s := by
  have hidle : phaseOf s.phase ≠ some .idle := fun h => hp ((phaseOf_eq_idle_iff _).mp h)
  simp only [fetch, hrst]
  split
  · rfl
  split
  · rfl
  · exact absurd ‹_› hidle
  · rfl

/-- `y` is `x` but for what the host offers. -/
def SameButOffer (x y : Inputs) : Prop :=
  y = { x with cmdValid := y.cmdValid, cmdWord := y.cmdWord, cmdLen := y.cmdLen, cmdBuf := y.cmdBuf,
               cmdScl := y.cmdScl, cmdSda := y.cmdSda }

/-- The environment's part of a step reads nothing that the host offers. -/
theorem thenEnv_answerInEnv {x y : Inputs} (h : SameButOffer x y) (e : List Inputs) (a : Answer) :
    thenEnv (answerInEnv (x :: e) a) = thenEnv (answerInEnv (y :: e) a) := by
  rw [h]
  cases a <;> rfl

theorem ReadsOnlySda.thenEnv_eq {f : State → Answer} (hf : ReadsOnlySda f) {x y : Inputs} (h : SameButOffer x y)
    (s : State) (e : List Inputs) : thenEnv (f (s.inEnv (x :: e))) = thenEnv (f (s.inEnv (y :: e))) := by
  have hread : (s.inEnv (y :: e)).sdaRead = (s.inEnv (x :: e)).sdaRead := by rw [h]; rfl
  calc thenEnv (f (s.inEnv (x :: e)))
      = thenEnv (answerInEnv (x :: e) (f (s.inEnv (x :: e)))) := congrArg thenEnv (hf (s.inEnv (x :: e)) (x :: e) rfl)
    _ = thenEnv (answerInEnv (y :: e) (f (s.inEnv (x :: e)))) := thenEnv_answerInEnv h e _
    _ = thenEnv (f (s.inEnv (y :: e))) := (congrArg thenEnv (hf (s.inEnv (x :: e)) (y :: e) hread)).symm

/-- While a command runs a step reads nothing that the host offers (20_memory R64). -/
theorem step_of_sameButOffer {x y : Inputs} (h : SameButOffer x y) (hp : s.phase ≠ 0#3) (e : List Inputs) :
    step (s.inEnv (x :: e)) = step (s.inEnv (y :: e)) := by
  have hfetch : fetch (s.inEnv (y :: e)) = fetch (s.inEnv (x :: e)) :=
    fetch_inEnv (s := s.inEnv (x :: e)) hp (by rw [h]; rfl)
  have hcore {f : State → Answer} (hf : ReadsOnlySda f) := hf.thenEnv_eq h s e
  unfold step
  rw [hfetch]
  cases hf : fetch (s.inEnv (x :: e)) with
  | reset => exact hcore (f := fun s => .next (resetBlock s)) fun _ _ _ => rfl
  | wait => exact hcore (f := fun s => .next s.noAction) fun _ _ _ => rfl
  | run i =>
    rcases fetchedWhen_of_fetch hf with ⟨h0, -⟩ | ⟨-, -, hu⟩
    · exact absurd h0 hp
    · exact hcore (exec_readsOnlySda hu)
  | choose => exact hcore sequence_readsOnlySda
  | memRead => exact hcore readPayload_readsOnlySda
  | memWrite => exact hcore writePayload_readsOnlySda
  | complete => exact hcore (f := fun s => .next (completeCommand s.result s)) fun _ _ _ => rfl
  | broken | illegal => rfl

end Sys2Proof.Machine

namespace Sys2Proof

open Machine

/-- Settles O37: of the environment a step of a command reads the reset input, the level of SDA, the ticks and the acts
of other agents, and nothing that the host offers. -/
theorem laterOffersHaveNoEffect : Obligations.LaterOffersHaveNoEffect := by
  unfold Obligations.LaterOffersHaveNoEffect
  intro s x y e hp hxy
  exact step_of_sameButOffer hxy hp e

end Sys2Proof
end

section
/-! Words and operations: a word is put together from its fields, a row of the opcode table holds encodings only, and the
decoders undo the encoder and are undone by it (30_encoding R71 to R82). -/

namespace Sys2Proof

variable {w : Word} {r : Row} {i : Instr}

/-! ### A word from its fields -/

/-- A word whose fields are those of a command is that command's word (30_encoding R71). -/
theorem cmdWordOf_eq {v : Bit} (hrsvd : w.extractLsb' 12 4 = 0#4) (hop : w.extractLsb' 8 4 = 1#4) (hrw : rwOf w = v) :
    cmdWordOf (devAddrOf w) v = w := by
  unfold cmdWordOf devAddrOf
  rw [← hrw, ← hrsvd, ← hop, rwOf, BitVec.extractLsb'_append_extractLsb'_eq_extractLsb' (rfl : 12 = 8 + 4),
    BitVec.extractLsb'_append_extractLsb'_eq_extractLsb' (rfl : 8 = 1 + 7),
    BitVec.extractLsb'_append_extractLsb'_eq_extractLsb' (rfl : 1 = 0 + 1)]
  exact BitVec.extractLsb'_eq_self

/-- A word whose `RSVD` is 0 is the micro-op word of its other fields (30_encoding R77). -/
theorem uopWordOf_eq {c : BitVec 4} {l : Bit} {b : Byte} (hcode : w.extractLsb' 12 4 = c)
    (hrsvd : w.extractLsb' 9 3 = 0#3) (hlsel : w.extractLsb' 8 1 = l) (himm : immOf w = b) : uopWordOf c l b = w := by
  unfold uopWordOf
  rw [← hcode, ← hrsvd, ← hlsel, ← himm, immOf, BitVec.extractLsb'_append_extractLsb'_eq_extractLsb' (rfl : 12 = 9 + 3),
    BitVec.extractLsb'_append_extractLsb'_eq_extractLsb' (rfl : 9 = 8 + 1),
    BitVec.extractLsb'_append_extractLsb'_eq_extractLsb' (rfl : 8 = 0 + 8)]
  exact BitVec.extractLsb'_eq_self

theorem lsel_eq_lselBit (w : Word) : w.extractLsb' 8 1 = lselBit (lineOf w) := by
  unfold lineOf
  rcases Machine.bit_cases (w.extractLsb' 8 1) with h | h <;> rw [h] <;> rfl

/-- The command a word stands for if its `RSVD` and `OP` are a command's. -/
def commandOf (w : Word) : Instr := if rwOf w = 0#1 then .write (devAddrOf w) else .read (devAddrOf w)

theorem encode_commandOf (hrsvd : w.extractLsb' 12 4 = 0#4) (hop : w.extractLsb' 8 4 = 1#4) :
    encode (commandOf w) = w := by
  unfold commandOf
  split
  · exact cmdWordOf_eq hrsvd hop ‹_›
  · exact cmdWordOf_eq hrsvd hop ((Machine.bit_cases _).resolve_left ‹_›)

/-! ### The rows of the opcode table -/

/-- A field that the mask of a row covers is the row's. -/
theorem field_of_rowHits (h : rowHits r w = true) {k n : Nat} (hm : r.mask.extractLsb' k n = BitVec.allOnes n) :
    w.extractLsb' k n = r.pat.extractLsb' k n := by
  rw [← eq_of_beq h, BitVec.extractLsb'_and, hm, BitVec.and_allOnes]

/-- Every row fixes bits 15:12. -/
theorem code_of_rowHits (hr : r ∈ cmdRows ++ uopRows) (h : rowHits r w = true) :
    w.extractLsb' 12 4 = r.pat.extractLsb' 12 4 :=
  field_of_rowHits h (by clear h; revert r; decide)

/-- A row holds the words of one operation and no other words: its fields outside the mask are the operand's. -/
theorem exists_encode_of_rowHits (hr : r ∈ cmdRows ++ uopRows) (h : rowHits r w = true) :
    ∃ i, encode i = w ∧ rowOf i = r := by
  have hexact (i : Instr) (hi : rowOf i = r) (hm : r.mask = BitVec.allOnes 16) (he : encode i = r.pat) :
      ∃ i, encode i = w ∧ rowOf i = r := ⟨i, by rw [he, ← eq_of_beq h, hm, BitVec.and_allOnes], hi⟩
  simp only [cmdRows, uopRows, List.cons_append, List.nil_append, List.mem_cons, List.not_mem_nil, or_false] at hr
  rcases hr with rfl | rfl | rfl | rfl | rfl | rfl | rfl | rfl | rfl | rfl | rfl | rfl | rfl
  · exact ⟨.write (devAddrOf w),
      cmdWordOf_eq (field_of_rowHits h rfl) (field_of_rowHits h rfl) (field_of_rowHits h rfl), rfl⟩
  · exact ⟨.read (devAddrOf w),
      cmdWordOf_eq (field_of_rowHits h rfl) (field_of_rowHits h rfl) (field_of_rowHits h rfl), rfl⟩
  · exact hexact .delayHalf rfl rfl rfl
  · exact ⟨.lineHigh (lineOf w), uopWordOf_eq (field_of_rowHits h rfl) (field_of_rowHits h rfl) (lsel_eq_lselBit w)
      (field_of_rowHits h rfl), rfl⟩
  · exact ⟨.lineLow (lineOf w), uopWordOf_eq (field_of_rowHits h rfl) (field_of_rowHits h rfl) (lsel_eq_lselBit w)
      (field_of_rowHits h rfl), rfl⟩
  · exact hexact .lineRead rfl rfl rfl
  · exact hexact .start rfl rfl rfl
  · exact hexact .stop rfl rfl rfl
  · exact ⟨.txByte (immOf w), uopWordOf_eq (field_of_rowHits h rfl) (field_of_rowHits h rfl) (field_of_rowHits h rfl)
      rfl, rfl⟩
  · exact hexact .rxByte rfl rfl rfl
  · exact hexact .checkAck rfl rfl rfl
  · exact hexact .sendAck rfl rfl rfl
  · exact hexact .sendNack rfl rfl rfl

/-! ### The decoders -/

/-- Decoding undoes encoding: the operands are looked at one constructor at a time. -/
theorem decode_encode (i : Instr) : decode (encode i) = .ok i := by
  cases i with
  | write a | read a => revert a; decide
  | txByte b => revert b; decide
  | lineHigh l | lineLow l => cases l <;> decide
  | delayHalf | lineRead | start | stop | rxByte | checkAck | sendAck | sendNack => decide

theorem encode_injective : Function.Injective encode := fun i j h =>
  Except.ok.inj ((decode_encode i).symm.trans (h ▸ decode_encode j))

theorem exists_rowHits_of_decodeCmd (h : decodeCmd w = .ok i) : ∃ r ∈ cmdRows, rowHits r w = true := by
  unfold decodeCmd at h
  split at h
  · exact ⟨rowWrite, by decide, ‹_›⟩
  split at h
  · exact ⟨rowRead, by decide, ‹_›⟩
  · split at h <;> cases h

theorem exists_rowHits_of_decodeUop (h : decodeUop w = .ok i) : ∃ r ∈ uopRows, rowHits r w = true := by
  by_contra hno
  simp only [uopRows, List.mem_cons, List.not_mem_nil, or_false, exists_eq_or_imp, exists_eq_left, not_or] at hno
  simp [decodeUop, hno] at h

theorem exists_rowHits_of_decode (h : decode w = .ok i) : ∃ r ∈ cmdRows ++ uopRows, rowHits r w = true := by
  unfold decode at h
  split at h
  · obtain ⟨r, hr, hhit⟩ := exists_rowHits_of_decodeCmd h
    exact ⟨r, List.mem_append_left _ hr, hhit⟩
  · obtain ⟨r, hr, hhit⟩ := exists_rowHits_of_decodeUop h
    exact ⟨r, List.mem_append_right _ hr, hhit⟩

/-- Encoding undoes decoding: a word that decodes lies in a row, so it is the word of some operation, which must be the
one decoded. -/
theorem encode_of_decode (h : decode w = .ok i) : encode i = w := by
  obtain ⟨r, hr, hhit⟩ := exists_rowHits_of_decode h
  obtain ⟨j, rfl, -⟩ := exists_encode_of_rowHits hr hhit
  rw [decode_encode] at h
  exact congrArg encode (Except.ok.inj h).symm

/-! ### Command words -/

theorem fields_of_decodeCmd (h : decodeCmd w = .ok i) : w.extractLsb' 12 4 = 0#4 ∧ w.extractLsb' 8 4 = 1#4 := by
  obtain ⟨r, hr, hhit⟩ := exists_rowHits_of_decodeCmd h
  simp only [cmdRows, List.mem_cons, List.not_mem_nil, or_false] at hr
  rcases hr with rfl | rfl <;> exact ⟨field_of_rowHits hhit rfl, field_of_rowHits hhit rfl⟩

theorem encode_of_decodeCmd (h : decodeCmd w = .ok i) : encode i = w :=
  encode_of_decode ((if_pos (fields_of_decodeCmd h).1).trans h)

theorem decodeCmd_of_fields (hrsvd : w.extractLsb' 12 4 = 0#4) (hop : w.extractLsb' 8 4 = 1#4) :
    decodeCmd w = .ok (commandOf w) := by
  have hdecode : decode w = .ok (commandOf w) := by
    conv_lhs => rw [← encode_commandOf hrsvd hop]
    exact decode_encode _
  exact (if_pos hrsvd).symm.trans hdecode

/-! ### Reserved micro-op words -/

theorem code_of_decodeUop (h : decodeUop w = .ok i) : w.extractLsb' 12 4 ≠ 0#4 := by
  obtain ⟨r, hr, hhit⟩ := exists_rowHits_of_decodeUop h
  rw [code_of_rowHits (List.mem_append_right _ hr) hhit]
  clear h hhit
  revert r
  decide

theorem encode_of_decodeUop (h : decodeUop w = .ok i) : encode i = w :=
  encode_of_decode ((if_neg (code_of_decodeUop h)).trans h)

/-- The micro-ops whose word has 0 in `IMM8`, with each line (30_encoding R78). -/
def uopsWithoutImm : List Instr :=
  [.delayHalf, .lineHigh .scl, .lineHigh .sda, .lineLow .scl, .lineLow .sda, .lineRead, .start, .stop, .rxByte,
    .checkAck, .sendAck, .sendNack]

/-- A word that passes the named checks is the word of an operation: TX_BYTE of its `IMM8`, or one of the finitely many
without an `IMM8` (30_encoding R78, R79). -/
theorem exists_encode_of_wfUopWord (h : wfUopWord w = true) : ∃ i, encode i = w := by
  simp only [wfUopWord, wfUopCode, wfUopRsvd, wfUopLsel, wfUopImm, Bool.and_eq_true, decide_eq_true_eq, beq_iff_eq] at h
  obtain ⟨⟨⟨hcode, hrsvd⟩, hlsel⟩, himm⟩ := h
  by_cases h7 : w.extractLsb' 12 4 = 7#4
  · have hscl : w.extractLsb' 8 1 = 0#1 := by simpa [h7] using hlsel
    exact ⟨.txByte (immOf w), uopWordOf_eq h7 hrsvd hscl rfl⟩
  · have hzero : immOf w = 0#8 := by simpa [h7, immOf] using himm
    have hfind : ∃ i ∈ uopsWithoutImm, encode i = uopWordOf (w.extractLsb' 12 4) (w.extractLsb' 8 1) 0#8 := by
      clear himm hzero hrsvd
      generalize w.extractLsb' 12 4 = c at *
      generalize w.extractLsb' 8 1 = l at *
      revert c l
      decide
    obtain ⟨i, -, hi⟩ := hfind
    exact ⟨i, hi.trans (uopWordOf_eq rfl hrsvd rfl hzero)⟩

theorem wfUopWord_encode (hwrite : ∀ a, i ≠ .write a) (hread : ∀ a, i ≠ .read a) : wfUopWord (encode i) = true := by
  cases i with
  | write a => exact absurd rfl (hwrite a)
  | read a => exact absurd rfl (hread a)
  | txByte b => clear hwrite hread; revert b; decide
  | lineHigh l | lineLow l => cases l <;> decide
  | delayHalf | lineRead | start | stop | rxByte | checkAck | sendAck | sendNack => decide

/-- The decoder of micro-op words accepts exactly the words that pass the named checks (30_encoding R79). -/
theorem exists_decodeUop_iff (w : Word) : (∃ i, decodeUop w = .ok i) ↔ wfUopWord w = true := by
  constructor
  · rintro ⟨i, h⟩
    obtain ⟨hwrite, hread⟩ := Machine.decodeUop_ne_command h
    rw [← encode_of_decodeUop h]
    exact wfUopWord_encode hwrite hread
  · intro h
    obtain ⟨i, rfl⟩ := exists_encode_of_wfUopWord h
    have hcode : (encode i).extractLsb' 12 4 ≠ 0#4 := fun h0 => by simp [wfUopWord, wfUopCode, h0] at h
    exact ⟨i, (if_neg hcode).symm.trans (decode_encode i)⟩

theorem exists_decodeUop_error_iff (w : Word) : (∃ e, decodeUop w = .error e) ↔ wfUopWord w = false := by
  rw [← Bool.not_eq_true, ← exists_decodeUop_iff]
  cases decodeUop w <;> simp

theorem wfUopCode_eq_false_iff (w : Word) :
    wfUopCode w = false ↔ w.extractLsb' 12 4 = 0x0#4 ∨ 0xC#4 ≤ w.extractLsb' 12 4 := by
  unfold wfUopCode
  generalize w.extractLsb' 12 4 = c
  revert c
  decide

theorem wfUopRsvd_eq_false_iff (w : Word) : wfUopRsvd w = false ↔ w.extractLsb' 9 3 ≠ 0#3 := by simp [wfUopRsvd]

theorem wfUopLsel_eq_false_iff (w : Word) :
    wfUopLsel w = false ↔
      (w.extractLsb' 8 1 = 1#1 ∧ w.extractLsb' 12 4 ≠ 0x2#4 ∧ w.extractLsb' 12 4 ≠ 0x3#4 ∧ w.extractLsb' 12 4 ≠ 0x4#4) ∨
      (w.extractLsb' 12 4 = 0x4#4 ∧ w.extractLsb' 8 1 = 0#1) := by
  unfold wfUopLsel
  generalize w.extractLsb' 12 4 = c
  generalize w.extractLsb' 8 1 = l
  revert c l
  decide

theorem wfUopImm_eq_false_iff (w : Word) :
    wfUopImm w = false ↔ w.extractLsb' 0 8 ≠ 0#8 ∧ w.extractLsb' 12 4 ≠ 0x7#4 := by simp [wfUopImm, and_comm]

/-! ### Source-level calls -/

theorem pinRefOf_eq {p : Params} {n : PinName} (hpin : n.pin < 2 ^ p.pinBits) :
    pinRefOf p n = n.port * 2 ^ p.pinBits + n.pin := by
  rw [pinRefOf, ← Nat.shiftLeft_add_eq_or_of_lt hpin, Nat.shiftLeft_eq]

theorem pinRefOf_lt {p : Params} {n : PinName} (hport : n.port < 2 ^ p.portBits) (hpin : n.pin < 2 ^ p.pinBits) :
    pinRefOf p n < 2 ^ p.pinWidth :=
  Nat.or_lt_two_pow (Nat.shiftLeft_lt hport) (hpin.trans_le (Nat.pow_le_pow_right Nat.two_pos (Nat.le_add_left _ _)))

/-- The word put together from the address and the direction is the one of the operation (30_encoding R84). -/
theorem offerOfCall_word {p : Params} {c : HostCall} (h : c.addr ≤ 0x7F) :
    (offerOfCall p c).word =
      encode (if c.isRead then .read (BitVec.ofNat 7 c.addr) else .write (BitVec.ofNat 7 c.addr)) := by
  obtain ⟨a, ha⟩ : ∃ a : BitVec 7, a.toNat = c.addr := ⟨BitVec.ofNat 7 c.addr, Nat.mod_eq_of_lt (by omega)⟩
  simp only [offerOfCall, ← ha, BitVec.ofNat_toNat, BitVec.setWidth_eq]
  cases c.isRead <;> (clear ha; revert a; decide)

/-! ### What is settled of words alone -/

/-- Settles O1: each operation's word is decoded by its own row, and its operands are the word's fields. -/
theorem decodeOfEncodeIsTheInstruction : Obligations.DecodeOfEncodeIsTheInstruction := by
  unfold Obligations.DecodeOfEncodeIsTheInstruction
  exact decode_encode

/-- Settles O2: a word that decodes lies in a row, and a row holds encodings only. -/
theorem encodeOfDecodeIsTheWord : Obligations.EncodeOfDecodeIsTheWord := by
  unfold Obligations.EncodeOfDecodeIsTheWord
  exact fun _ _ => encode_of_decode

/-- Settles O3: the words are the encodings of the operations. -/
theorem wordsOfTheSpecDecode : Obligations.WordsOfTheSpecDecode := by
  unfold Obligations.WordsOfTheSpecDecode
  exact ⟨decode_encode (.write 0x50), decode_encode (.read 0x68), decode_encode .delayHalf,
    decode_encode (.lineHigh .scl), decode_encode (.lineHigh .sda), decode_encode (.lineLow .scl),
    decode_encode (.lineLow .sda), decode_encode .lineRead, decode_encode .start, decode_encode .stop,
    decode_encode (.txByte 0xA5), decode_encode .rxByte, decode_encode .checkAck, decode_encode .sendAck,
    decode_encode .sendNack⟩

/-- Settles O4: a word with the two fields is the encoding of its command, and both command rows fix the two fields. -/
theorem commandWordsDecodeByTheirFields : Obligations.CommandWordsDecodeByTheirFields := by
  unfold Obligations.CommandWordsDecodeByTheirFields
  refine fun w => ⟨fun ⟨hrsvd, hop⟩ => decodeCmd_of_fields hrsvd hop, fun hno => ?_⟩
  cases h : decodeCmd w with
  | ok i => exact absurd (fields_of_decodeCmd h) hno
  | error e => exact ⟨e, rfl⟩

/-- Settles O6: a word of two rows would be the word of an operation of each, but it decodes to one operation. -/
theorem atMostOneRowMatchesAWord : Obligations.AtMostOneRowMatchesAWord := by
  unfold Obligations.AtMostOneRowMatchesAWord
  intro w r r' hr hr' h h'
  obtain ⟨i, hi, rfl⟩ := exists_encode_of_rowHits hr h
  obtain ⟨j, hj, rfl⟩ := exists_encode_of_rowHits hr' h'
  rw [encode_injective (hi.trans hj.symm)]

/-- Settles O8: the word is checked for each address and direction, the pins by arithmetic. -/
theorem callsAreEncodedAsTheSpecSays : Obligations.CallsAreEncodedAsTheSpecSays := by
  unfold Obligations.CallsAreEncodedAsTheSpecSays
  refine ⟨fun p c hc => ?_, fun p c h => if_neg fun hc => ?_, by decide⟩
  · have hwf := hc
    simp only [HostCall.wf, wfCallAddr, wfCallWidths, Bool.and_eq_true, decide_eq_true_eq] at hwf
    obtain ⟨haddr, ⟨⟨⟨-, hsclPort⟩, hsclPin⟩, hsdaPort⟩, hsdaPin⟩ := hwf
    exact ⟨offerOfCall p c, if_pos hc, rfl, offerOfCall_word haddr, rfl, rfl, pinRefOf_eq hsclPin, pinRefOf_eq hsdaPin,
      pinRefOf_lt hsclPort hsclPin, pinRefOf_lt hsdaPort hsdaPin⟩
  · simp only [HostCall.wf, wfCallAddr, Bool.and_eq_true, decide_eq_true_eq] at hc
    exact absurd h (by omega)

end Sys2Proof
end

section
/-! Where a step answers a next state and where it does not: the offer of a command, the reserved words and phases, and the
steps of a consistent sequencer (30_encoding R75, R76, R79, 44_transactions R160, 60_exceptions R194). -/

namespace Sys2Proof.Machine

variable {s : State}

/-! ### An offered command -/

/-- The four checks on the values of the host port (30_encoding R75). -/
theorem offerNow_wf_iff (w : Word) (s : State) :
    (offerNow w s).wf s.par = true ↔
      w.extractLsb' 12 4 = 0#4 ∧ w.extractLsb' 8 4 = 1#4 ∧
        s.now.cmdScl % 2 ^ s.par.pinWidth ≠ s.now.cmdSda % 2 ^ s.par.pinWidth ∧
        s.now.cmdBuf % 2 ^ s.par.addrWidth + s.now.cmdLen % 2 ^ s.par.lenWidth ≤ 2 ^ s.par.addrWidth := by
  simp only [Offer.wf, wfRsvd, wfOp, wfPinsDistinct, wfBufRange, Bool.and_eq_true, beq_iff_eq, bne_iff_ne,
    decide_eq_true_eq, and_assoc]
  exact Iff.rfl

/-- A command offered to an idle block is accepted if it passes every check and refused otherwise, whether or not its
word decodes (44_transactions R160, 30_encoding R76). -/
theorem step_of_offer (hrst : s.now.rst = false) (hp : s.phase = 0#3) (hb : s.busy = 0#1) (hv : s.now.cmdValid = true) :
    step s = if (offerNow s.now.cmdWord s).wf s.par then .next (envStep (latchCommand (offerNow s.now.cmdWord s) s))
      else .refused .illegalCommand := by
  have hready : s.cmdReady = true := by simp [State.cmdReady, hb, hrst]
  cases hdec : decodeCmd s.now.cmdWord with
  | error e =>
    have hfetch : fetch s = .illegal := by simp [fetch, hrst, hp, phaseOf, hv, hready, hdec]
    have hwf : (offerNow s.now.cmdWord s).wf s.par ≠ true := fun h => by
      obtain ⟨hrsvd, hop, -⟩ := (offerNow_wf_iff _ _).mp h
      rw [decodeCmd_of_fields hrsvd hop] at hdec
      cases hdec
    rw [if_neg hwf, step, hfetch]
  | ok i =>
    have hfetch : fetch s = .run i := by simp [fetch, hrst, hp, phaseOf, hv, hready, hdec]
    have hexec : exec i s = acceptCommand s.now.cmdWord s := by
      rw [← encode_of_decodeCmd hdec]
      rcases command_of_decodeCmd hdec with ⟨a, rfl⟩ | ⟨a, rfl⟩ <;> rfl
    rw [step, hfetch]
    rcases acceptCommand_cases s.now.cmdWord s with ⟨h, -⟩ | ⟨-, hwf, ha⟩ | ⟨-, hwf, ha⟩
    · exact absurd (h.symm.trans hready) Bool.false_ne_true
    · simp only [hexec, ha, hwf, thenEnv, Bool.false_eq_true, if_false]
    · simp only [hexec, ha, hwf, thenEnv, if_true]

/-- In IDLE a step answers a next state or refuses an offer. -/
theorem step_of_idle (hrst : s.now.rst = false) (hp : s.phase = 0#3) :
    (∃ t, step s = .next t) ∨ (step s = .refused .illegalCommand ∧ s.now.cmdValid = true) := by
  by_cases hno : s.now.cmdValid = false ∨ s.busy = 1#1
  · exact .inl ⟨_, step_of_coreStep (.wait (fetch_of_idle hrst hp hno))⟩
  · obtain ⟨hv, hb⟩ := not_or.mp hno
    have hvalid : s.now.cmdValid = true := eq_true_of_ne_false hv
    rw [step_of_offer hrst hp ((bit_cases _).resolve_right hb) hvalid]
    split
    · exact .inl ⟨_, rfl⟩
    · exact .inr ⟨rfl, hvalid⟩

/-! ### Reserved words and unused phases -/

theorem fetch_of_ended (hrst : s.now.rst = false) (hp : Safety.Running s) (hd : s.due = .ended) : fetch s = .choose := by
  rcases hp with hp | hp | hp | hp <;> simp [fetch, hrst, hp, phaseOf, hd]

theorem sequence_of_reserved {e : DecodeError} (hu : decodeUop s.uopWord = .error e) :
    sequence s = .fault .reservedUop := by
  simp only [sequence, hu]

/-- A reserved word faults at an action of it and at the choice after it (30_encoding R79). -/
theorem step_of_reserved {e : DecodeError} (hrst : s.now.rst = false) (hp : Safety.Running s)
    (hd : s.due = .uop ∨ s.due = .ended) (hu : decodeUop s.uopWord = .error e) : step s = .fault .reservedUop := by
  rcases hd with hd | hd
  · have hfetch : fetch s = .broken .reservedUop := by
      rcases hp with hp | hp | hp | hp <;> simp [fetch, hrst, hp, phaseOf, hd, hu]
    rw [step, hfetch]
  · rw [step, fetch_of_ended hrst hp hd]
    simp only [sequence_of_reserved hu, thenEnv]

theorem step_of_unusedPhase (hrst : s.now.rst = false) (hp : 4#3 < s.phase) : step s = .fault .reservedUop := by
  have hnone : phaseOf s.phase = none := by
    generalize s.phase = p at hp
    revert p
    decide
  have hfetch : fetch s = .broken .reservedUop := by simp [fetch, hrst, hnone]
  rw [step, hfetch]

end Sys2Proof.Machine

namespace Sys2Proof.Safety

open Sys2Proof.Machine

variable {s : State} {i : Instr}

/-! ### A running command -/

/-- After every micro-op the sequencer performs, a rule says what follows (44_transactions R163). -/
theorem CurrentUop.exists_choice (h : CurrentUop s i) (hu : s.uopWord = encode i) : ∃ r, Choice s r := by
  have hdec : decodeUop s.uopWord = .ok i := hu ▸ decodeUop_encode h.compound
  cases h with
  | start hp => exact ⟨_, .address (phaseOf_eq_some_iff.mpr hp) hdec⟩
  | address hp => exact ⟨_, .checkAddress (phaseOf_eq_some_iff.mpr hp) hdec⟩
  | checkAddress hp => exact ⟨_, .addressChecked (phaseOf_eq_some_iff.mpr hp) hdec⟩
  | transmit hp => exact ⟨_, .checkByte (phaseOf_eq_some_iff.mpr hp) hdec⟩
  | checkByte hp => exact ⟨_, .byteChecked (phaseOf_eq_some_iff.mpr hp) hdec⟩
  | receive hp => exact ⟨_, .received (phaseOf_eq_some_iff.mpr hp) hdec⟩
  | ack hp => exact ⟨_, .acknowledged (phaseOf_eq_some_iff.mpr hp) (.inl hdec)⟩
  | nack hp => exact ⟨_, .acknowledged (phaseOf_eq_some_iff.mpr hp) (.inr hdec)⟩
  | stop hp => exact ⟨_, .stopped (phaseOf_eq_some_iff.mpr hp) hdec⟩

/-- A payload byte lies in buffer memory, because the command was admitted (30_encoding R75, 20_memory R52). -/
theorem ControlSound.byteAddr_lt (h : ControlSound s) (hp : s.phase = 3#3) : s.byteAddr < 2 ^ s.par.addrWidth := by
  obtain ⟨⟨-, -, -, hrange⟩, hin, -⟩ := h.data hp
  unfold State.byteAddr
  omega

/-- While a command runs the core always has a next thing to do. -/
theorem ControlSound.exists_coreStep (h : ControlSound s) (hrst : s.now.rst = false) (hp : s.phase ≠ 0#3) :
    ∃ r, CoreStep s r := by
  cases hd : s.due with
  | uop =>
    obtain ⟨i, hc, hperf⟩ := h.currentUop hp (.inl hd)
    obtain ⟨hu, hlt, -⟩ := hperf.running hd
    obtain ⟨r, hr⟩ := exec_isNext hc.compound hlt
    exact ⟨r, .run i r (fetch_of_uop hrst hc.running hd (hu ▸ decodeUop_encode hc.compound)) hr⟩
  | ended =>
    obtain ⟨i, hc, hperf⟩ := h.currentUop hp (.inr hd)
    obtain ⟨r, hr⟩ := hc.exists_choice (hperf.ended hd).1
    exact ⟨r, .choose r (fetch_of_ended hrst hc.running hd) (sequence_of_choice hr)⟩
  | memRead =>
    obtain ⟨hp3, -⟩ := h.access hp (.inl hd)
    exact ⟨_, .memRead _ (fetch_of_memRead hrst hp3 hd) (if_pos (h.byteAddr_lt hp3))⟩
  | memWrite =>
    obtain ⟨hp3, -⟩ := h.access hp (.inr hd)
    exact ⟨_, .memWrite _ (fetch_of_memWrite hrst hp3 hd) (if_pos (h.byteAddr_lt hp3))⟩
  | complete =>
    obtain ⟨hp4, -⟩ := h.complete hp hd
    exact ⟨_, .complete (by simp [fetch, hrst, hp4, phaseOf, hd])⟩

end Sys2Proof.Safety

namespace Sys2Proof

open Machine Safety

/-- Settles O48: a reset, an idle block and a running command each have their step, and only an offer is refused. -/
theorem noStepFaults : Obligations.NoStepFaults := by
  unfold Obligations.NoStepFaults
  rintro s ⟨-, hc, -⟩
  by_cases hrst : s.now.rst = true
  · exact .inl ⟨_, step_of_coreStep (.reset (if_pos hrst))⟩
  · have hlow : s.now.rst = false := eq_false_of_ne_true hrst
    by_cases hp : s.phase = 0#3
    · exact (step_of_idle hlow hp).imp_right fun ⟨h, hv⟩ => ⟨h, hp, hv⟩
    · obtain ⟨r, hr⟩ := hc.exists_coreStep hlow hp
      exact .inl ⟨_, step_of_coreStep hr⟩

/-- Settles O5: the decoder refuses what fails a named check; such a word stops both the action and the choice; a
consistent sequencer holds the word of the micro-op it performs. -/
theorem reservedMicroOpWordsFaultAndAreNeverMet : Obligations.ReservedMicroOpWordsFaultAndAreNeverMet := by
  unfold Obligations.ReservedMicroOpWordsFaultAndAreNeverMet
  refine ⟨fun w => ?_, fun s hrst hp hd ⟨e, hu⟩ => step_of_reserved hrst hp hd hu, fun s => step_of_unusedPhase,
    fun s h hp hd => ?_⟩
  · simp only [exists_decodeUop_error_iff, wfUopWord, Bool.and_eq_false_iff, wfUopCode_eq_false_iff,
      wfUopRsvd_eq_false_iff, wfUopLsel_eq_false_iff, wfUopImm_eq_false_iff, or_assoc]
  · obtain ⟨i, hc, hperf⟩ := h.currentUop hp hd
    exact ⟨i, hperf.1 ▸ decodeUop_encode hc.compound⟩

/-- Settles O7: the byte is checked for each address; after START the sequencer begins TX_BYTE of the byte of `CMD`. -/
theorem addressByteIsAddressThenDirection : Obligations.AddressByteIsAddressThenDirection := by
  unfold Obligations.AddressByteIsAddressThenDirection
  refine ⟨by decide, fun s hrst hp hd hu => ?_⟩
  have hchoice : Choice s (enterAddress s.noAction) :=
    .address (phaseOf_eq_some_iff.mpr hp) (hu ▸ decodeUop_encode rfl)
  exact ⟨_, step_of_coreStep (.choose _ (fetch_of_ended hrst (.inl hp) hd) (sequence_of_choice hchoice)),
    ⟨rfl, rfl, rfl⟩, enterAddress_uopWord _, rfl, rfl, rfl, rfl, fun _ => rfl, fun _ => rfl, ⟨rfl, rfl, rfl⟩,
    rfl, rfl, rfl, rfl, rfl, rfl, rfl, rfl, rfl, rfl, rfl, rfl⟩

/-- Settles O10: an idle block refuses exactly the offers that fail a check. -/
theorem inadmissibleCommandIsRefused : Obligations.InadmissibleCommandIsRefused := by
  unfold Obligations.InadmissibleCommandIsRefused
  intro s hrst hp hb hv
  rw [← offerNow_wf_iff, step_of_offer hrst hp hb hv]
  split <;> simp [*]

end Sys2Proof
end

section
/-! The primitives of the top block, one action each, and the delay of a running command
(40_delay_and_lines R90 to R96). -/

namespace Sys2Proof.Machine

variable {s : State}

/-- A released SDA has the level of the other participants (10_state R36). -/
theorem sdaRead_of_released (h : s.drv s.sdaRef = .rel) : s.sdaRead = s.now.sdaLevel := by
  rw [sdaRead_of_drv, h]
  rfl

/-- SDA driven low reads 0, whatever the other participants do (10_state R36). -/
theorem sdaRead_of_drivenLow (h : s.drv s.sdaRef = .low) : s.sdaRead = 0#1 := by
  rw [sdaRead_of_drv, h]
  rfl

/-- A step of DELAY_HALF changes no drive state (40_delay_and_lines R90). -/
theorem delayStep_endUop_drv (s : State) (c : Nat) : (delayStep State.endUop s).drv c = s.drv c := by
  rcases delayStep_cases State.endUop s with ⟨-, h⟩ | ⟨-, -, h⟩ | ⟨-, -, h⟩ <;> rw [h] <;> rfl

/-- A step of DELAY_HALF changes no register of the sub-blocks (40_delay_and_lines R90). -/
theorem delayStep_endUop_sameEngines (s : State) : Safety.SameEngines s (delayStep State.endUop s) := by
  rcases delayStep_cases State.endUop s with ⟨-, h⟩ | ⟨-, -, h⟩ | ⟨-, -, h⟩ <;> rw [h] <;> exact ⟨rfl, rfl, rfl⟩

/-- Of a byte into which `v` was shifted, bit 0 is `v` (42_byte_shift R121). -/
theorem shiftIn_lowBit (v : Bit) (s : State) : (shiftIn v s).sr.extractLsb' 0 1 = v := by
  have hbit := Safety.bitOf_shiftIn s.sr v (n := 0) (m := 0) (by decide)
  rwa [BitVec.shiftLeft_zero, if_pos rfl] at hbit

/-- At its third position of a bit RX_BYTE samples (42_byte_shift R121). -/
theorem execRxByte_of_sample (hlt : s.upos < 41) (hmod : s.upos % 5 = 3) :
    execRxByte s = .next (sampleBit s).nextPos := by
  obtain ⟨r, hr, hstep⟩ := Safety.execRxByte_rxStep hlt
  rw [hr]
  cases hstep with
  | sample => rfl
  | load | high | delay | low | bitEnds => omega

end Sys2Proof.Machine

namespace Sys2Proof.Safety

open Sys2Proof.Machine

variable {s r : State}

/-- A command waits only at an action of its micro-op. -/
theorem ControlSound.due_of_waiting (h : ControlSound s) (hp : s.phase ≠ 0#3) (hw : s.dlyWait = 1#1) :
    s.due = .uop := by
  have hno {P : Prop} (h0 : s.dlyWait = 0#1) : P := absurd (h0.symm.trans hw) (by decide)
  cases hd : s.due with
  | uop => rfl
  | ended =>
    obtain ⟨i, -, hperf⟩ := h.currentUop hp (.inr hd)
    exact hno (hperf.ended hd).2
  | memRead => exact hno (h.access hp (.inl hd)).2
  | memWrite => exact hno (h.access hp (.inr hd)).2
  | complete => exact hno (h.complete hp hd).2

/-- While a command is in a delay, the core's part of a step is a poll that waits or the end of the delay. -/
theorem ControlSound.waiting_coreStep (h : ControlSound s) (hrst : s.now.rst = false) (hp : s.phase ≠ 0#3)
    (hw : s.dlyWait = 1#1) (hr : CoreStep s r) :
    Acted s r ∧ ((s.tcnt < s.par.halfTicks ∧ r = s.noAction) ∨ ∃ i, DelayEndsAt i s r) := by
  have hd := h.due_of_waiting hp hw
  cases hr with
  | run i r hf he =>
    obtain ⟨hc, hperf, -⟩ := h.performing_of_run hp hf
    obtain ⟨-, -, hdelay, hshift⟩ := hperf.running hd
    refine ⟨exec_acted hc.compound he, ?_⟩
    cases exec_microOpStep hc.compound hshift he with
    | acts hact => exact absurd (hact.delay.symm.trans (hdelay hw)) Bool.false_ne_true
    | delayBegins _ h0 => exact absurd (h0.symm.trans hw) (by decide)
    | waits _ _ ht => exact .inl ⟨ht, rfl⟩
    | delayEnds hend => exact .inr ⟨i, hend⟩
  | reset hf => exact absurd (hrst.symm.trans (fetchedWhen_of_fetch hf)) Bool.false_ne_true
  | wait hf => exact absurd (fetchedWhen_of_fetch hf) hp
  | choose r hf | memRead r hf | memWrite r hf | complete hf =>
    obtain ⟨-, hd'⟩ := fetchedWhen_of_fetch hf
    rw [hd] at hd'
    cases hd'

end Sys2Proof.Safety

namespace Sys2Proof

open Machine Safety

/-- Settles O12: the action sets the one drive state, and a released SDA has the level of the other participants. -/
theorem lineHighReleasesTheLine : Obligations.LineHighReleasesTheLine := by
  unfold Obligations.LineHighReleasesTheLine
  refine ⟨fun l s => ?_, fun s => ⟨rfl, rfl⟩, by decide, by decide, rfl, rfl⟩
  have hacted : Acted s (setLineHigh l s).endUop := ⟨_, .high l, rfl⟩
  have hdrv (c : Nat) : (setLineHigh l s).endUop.drv c = if c = s.lineRef l then .rel else s.drv c :=
    setLineHigh_drv l s c
  refine ⟨_, rfl, rfl, rfl, rfl, rfl, rfl, hdrv, ?_, hacted.sameControl, ⟨rfl, rfl, rfl⟩, fun _ => rfl, rfl, rfl⟩
  rintro rfl
  exact sdaRead_of_released ((hdrv _).trans (if_pos rfl))

/-- Settles O13: the action sets the one drive state, and SDA driven low reads 0. -/
theorem lineLowDrivesTheLine : Obligations.LineLowDrivesTheLine := by
  unfold Obligations.LineLowDrivesTheLine
  refine ⟨fun l s => ?_, fun s => ⟨rfl, rfl⟩, by decide, by decide, rfl, rfl⟩
  have hacted : Acted s (setLineLow l s).endUop := ⟨_, .low l, rfl⟩
  have hdrv (c : Nat) : (setLineLow l s).endUop.drv c = if c = s.lineRef l then .low else s.drv c :=
    setLineLow_drv l s c
  refine ⟨_, rfl, rfl, rfl, rfl, rfl, rfl, hdrv, ?_, hacted.sameControl, ⟨rfl, rfl, rfl⟩, fun _ => rfl, rfl, rfl⟩
  rintro rfl
  exact sdaRead_of_drivenLow ((hdrv _).trans (if_pos rfl))

/-- Settles O14: the event carries the level read, and the two callers store that level. -/
theorem lineReadSamplesSda : Obligations.LineReadSamplesSda := by
  unfold Obligations.LineReadSamplesSda
  refine ⟨fun s => ?_, fun s hlt hmod => ?_, fun s hk => ?_, by decide, rfl⟩
  · have hacted : Acted s (readSda s).endUop := ⟨_, .read, rfl⟩
    rw [← sdaRead_of_drv]
    exact ⟨_, rfl, rfl, rfl, rfl, rfl, rfl, fun _ => rfl, hacted.sameControl, ⟨rfl, rfl, rfl⟩, fun _ => rfl, rfl, rfl⟩
  · exact ⟨_, execRxByte_of_sample hlt hmod, shiftIn_lowBit _ _, rfl⟩
  · exact ⟨(sampleAck s).nextPos, by simp only [exec, execCheckAck, hk], rfl, rfl⟩

/-- Settles O15: a step of the delay begins it, polls it or ends it. -/
theorem delayHalfWaitsForTheThreshold : Obligations.DelayHalfWaitsForTheThreshold := by
  unfold Obligations.DelayHalfWaitsForTheThreshold
  refine ⟨fun s => ⟨delayStep State.endUop s, rfl, ?_⟩, by decide, rfl⟩
  have hacted := delayStep_endUop_acted s
  refine ⟨hacted.sameControl, delayStep_endUop_sameEngines s, fun a => by rw [hacted.mem_eq],
    delayStep_endUop_drv s, ?_⟩
  rcases delayStep_cases State.endUop s with ⟨hw, h⟩ | ⟨hw, ht, h⟩ | ⟨hw, ht, h⟩ <;> rw [h]
  · have hno {P : Prop} (h1 : s.dlyWait = 1#1) : P := absurd (hw.symm.trans h1) (by decide)
    exact ⟨fun _ => ⟨rfl, rfl, rfl, rfl, rfl, rfl⟩, fun h1 => hno h1, fun h1 => hno h1⟩
  · have hno {P : Prop} (h0 : s.dlyWait = 0#1) : P := absurd (hw.symm.trans h0) (by decide)
    exact ⟨fun h0 => hno h0, fun _ hlow => absurd ht (Nat.not_le.mpr hlow),
      fun _ _ => ⟨rfl, rfl, rfl, rfl, rfl, rfl, rfl⟩⟩
  · have hno {P : Prop} (h0 : s.dlyWait = 0#1) : P := absurd (hw.symm.trans h0) (by decide)
    exact ⟨fun h0 => hno h0, fun _ _ => ⟨rfl, hw, rfl, rfl, rfl, rfl, rfl, rfl⟩,
      fun _ hover => absurd hover (Nat.not_le.mpr ht)⟩

/-- Settles O55: in a delay the core polls or ends it, and the environment writes none of these registers. -/
theorem delayEndsOnlyAtTheThreshold : Obligations.DelayEndsOnlyAtTheThreshold := by
  unfold Obligations.DelayEndsOnlyAtTheThreshold
  rintro s t ⟨-, hc, -⟩ hrst hp hw hst
  obtain ⟨r, hr, rfl⟩ := step_next hst
  obtain ⟨hacted, ⟨ht, rfl⟩ | ⟨i, h⟩⟩ := hc.waiting_coreStep hrst hp hw hr
  · exact ⟨rfl, rfl, rfl, rfl, rfl, fun hover => absurd hover (Nat.not_le.mpr ht),
      fun _ => ⟨hw, rfl, rfl, rfl, rfl, rfl⟩⟩
  · exact ⟨h.trace, hacted.phase_eq, hacted.status_eq, hacted.uopWord_eq, h.ackbit, fun _ => h.dlyWait,
      fun hlow => absurd h.threshold (Nat.not_le.mpr hlow)⟩

end Sys2Proof
end

section
/-! The progress of a command: what each part of a step does to the bound on the steps left
(40_delay_and_lines R90, 44_transactions R161, R162, R165). -/

namespace Sys2Proof.Safety

open Sys2Proof.Machine

variable {s r : State} {i : Instr}

/-! ### The bound, by the micro-op performed -/

/-- A bound on the steps of `n` payload bytes, of STOP and of `Complete` (44_transactions R161, R162). -/
def payloadCost (n : Nat) : Nat := 100 * n + (uopCost .stop + 1)

/-- A bound on the steps of a command behind its current micro-op `i` and the sequencer's choice after it. -/
def stepsAfterUop (i : Instr) (s : State) : Nat :=
  if s.phase = 1#3 then uopCost (.txByte 0) + uopCost .checkAck + payloadCost s.len
  else if s.phase = 2#3 then
    match i with
    | .txByte _ => uopCost .checkAck + payloadCost s.len
    | _ => payloadCost s.len
  else if s.phase = 3#3 then
    match i with
    | .txByte _ => uopCost .checkAck + payloadCost (s.len - s.idx - 1)
    | .rxByte => 1 + uopCost .sendAck + payloadCost (s.len - s.idx - 1)
    | _ => payloadCost (s.len - s.idx - 1)
  else 1

/-- In a micro-op the steps left are those of the micro-op and those behind it. -/
theorem CurrentUop.stepsLeft_eq (h : CurrentUop s i) (hu : s.uopWord = encode i)
    (hd : s.due = .uop ∨ s.due = .ended) : stepsLeft s = uopLeft i s + stepsAfterUop i s := by
  have hdec : decodeUop s.uopWord = .ok i := hu ▸ decodeUop_encode h.compound
  cases h with
  | start hp => simp [stepsLeft, stepsAfterUop, hp, payloadCost, Nat.add_assoc]
  | address hp | checkAddress hp =>
    simp [stepsLeft, stepsAfterUop, hp, hdec, payloadCost, uopLeft, opLength, Nat.add_assoc]
  | transmit hp | checkByte hp | receive hp | ack hp | nack hp =>
    rcases hd with hd | hd <;> simp [stepsLeft, stepsAfterUop, hp, hdec, hd, payloadCost, Nat.add_assoc]
  | stop hp => rcases hd with hd | hd <;> simp [stepsLeft, stepsAfterUop, hp, hd]

/-- When a micro-op has ended, only the choice after it is left of it. -/
theorem CurrentUop.stepsLeft_of_ended (h : CurrentUop s i) (hperf : Performing i s) (hd : s.due = .ended) :
    stepsLeft s = 1 + stepsAfterUop i s := by
  rw [h.stepsLeft_eq (hperf.ended hd).1 (.inr hd), uopLeft, if_neg (by simp [hd])]

/-- A micro-op that has just begun costs its whole expansion. -/
theorem CurrentUop.stepsLeft_of_begun (h : CurrentUop s i) (hu : s.uopWord = encode i) (hd : s.due = .uop)
    (hk : s.upos = 0) (hw : s.dlyWait = 0#1) : stepsLeft s = uopCost i + stepsAfterUop i s := by
  rw [h.stepsLeft_eq hu (.inl hd), uopLeft, if_pos hd, hk, hw]
  rfl

/-! ### An action -/

theorem stepsAfterUop_of_acted (h : Acted s r) (i : Instr) : stepsAfterUop i r = stepsAfterUop i s := by
  obtain ⟨-, -, hlen, -, -, -, -, hphase, hidx, -⟩ := h.sameControl
  simp only [stepsAfterUop, hlen, hphase, hidx]

theorem uopLeft_of_running (hd : s.due = .uop) :
    uopLeft i s = 2 * (opLength i - s.upos) - s.dlyWait.toNat + 1 := if_pos hd

/-- A step of a micro-op uses up a part of it, unless the step is a poll that waits (40_delay_and_lines R90). -/
theorem uopLeft_exec (hi : compound i = true) (hperf : Performing i s) (hd : s.due = .uop) (he : exec i s = .next r) :
    (Waiting s ∧ r = s.noAction) ∨ (¬ Waiting s ∧ uopLeft i r < uopLeft i s) := by
  obtain ⟨-, hlt, hdw, hshift⟩ := hperf.running hd
  rw [uopLeft_of_running hd]
  cases exec_microOpStep hi hshift he with
  | acts h =>
    have hw : s.dlyWait = 0#1 :=
      (bit_cases _).resolve_right fun h1 => Bool.false_ne_true (h.delay.symm.trans (hdw h1))
    refine .inr ⟨fun ⟨_, h1, _⟩ => absurd (hw.symm.trans h1) (by decide), ?_⟩
    rw [uopLeft_of_running (h.due.trans hd), h.upos, h.dlyWait, hw]
    bv_omega
  | delayBegins _ hw =>
    refine .inr ⟨fun ⟨_, h1, _⟩ => absurd (hw.symm.trans h1) (by decide), ?_⟩
    rw [uopLeft_of_running (s := beginDelay s) hd, beginDelay_upos, beginDelay_dlyWait, hw]
    bv_omega
  | waits _ hw ht => exact .inl ⟨⟨hd, hw, ht⟩, rfl⟩
  | delayEnds h =>
    refine .inr ⟨fun ⟨_, _, ht⟩ => absurd h.threshold (Nat.not_le.mpr ht), ?_⟩
    have hpos := h.position
    rw [h.waiting]
    split at hpos
    · rw [uopLeft, if_neg (by simp [hpos.2])]
      bv_omega
    · rw [uopLeft_of_running (hpos.2.trans hd), hpos.1, h.dlyWait]
      bv_omega

/-! ### A choice of the sequencer -/

theorem stepsLeft_enterStop (res : Result) (hw : s.dlyWait = 0#1) : stepsLeft (enterStop res s) = payloadCost 0 := by
  rw [CurrentUop.stepsLeft_of_begun (i := .stop) (.stop rfl) (enterStop_uopWord _ _) rfl rfl hw]
  rfl

/-- Behind the loop test at `n` there are the payload bytes from `n` on. -/
theorem stepsLeft_payloadLoop_le (n : Nat) (hw : s.dlyWait = 0#1) :
    stepsLeft (payloadLoop n s) ≤ payloadCost (s.len - n) := by
  rcases payloadLoop_cases n s with ⟨-, h⟩ | ⟨hlt, -, h⟩ | ⟨hlt, hrw, h⟩ <;> rw [h]
  · rw [stepsLeft_enterStop (s := { s with idx := n }) _ hw]
    simp only [payloadCost]
    omega
  · simp [stepsLeft, phaseCode, payloadCost, uopCost, opLength]
    omega
  · refine Eq.trans_le (CurrentUop.stepsLeft_of_begun (i := .rxByte) (.receive rfl hrw)
      (issue_uopWord .rxByte { s with idx := n }) rfl rfl hw) ?_
    simp [stepsAfterUop, phaseCode, payloadCost, uopCost, opLength]
    omega

/-- The abort costs no more than the payload it skips. -/
theorem stepsLeft_afterCheck_le (n : Nat) (hw : s.dlyWait = 0#1) :
    stepsLeft (afterCheck n s) ≤ payloadCost (s.len - n) := by
  rcases afterCheck_cases n s with ⟨-, h⟩ | ⟨-, h⟩ <;> rw [h]
  · rw [stepsLeft_enterStop _ hw]
    simp only [payloadCost]
    omega
  · exact stepsLeft_payloadLoop_le n hw

/-- What the sequencer chooses when micro-op `i` has ended is no more than what was left behind `i`. -/
theorem stepsLeft_of_choice (hf : FitsWidths s) (hin : s.phase = 3#3 → s.idx < s.len) (hc : CurrentUop s i)
    (hperf : Performing i s) (hd : s.due = .ended) (hr : Choice s r) : stepsLeft r ≤ stepsAfterUop i s := by
  obtain ⟨hu, hw⟩ := hperf.ended hd
  have hi {j : Instr} (hj : decodeUop s.uopWord = .ok j) : i = j := by
    rw [hu, decodeUop_encode hc.compound] at hj
    exact Except.ok.inj hj
  cases hr with
  | address hp hj =>
    have hp1 : s.phase = 1#3 := phaseOf_eq_some_iff.mp hp
    refine Eq.trans_le (CurrentUop.stepsLeft_of_begun (i := .txByte s.addrByte) (.address rfl) (enterAddress_uopWord _)
      rfl rfl hw) ?_
    simp [stepsAfterUop, hp1, uopCost, opLength]
    omega
  | checkAddress hp hj =>
    have hp2 : s.phase = 2#3 := phaseOf_eq_some_iff.mp hp
    obtain rfl := hi hj
    refine Eq.trans_le (CurrentUop.stepsLeft_of_begun (i := .checkAck) (.checkAddress hp2) (issue_uopWord _ _) rfl rfl
      hw) ?_
    simp [stepsAfterUop, hp2]
  | addressChecked hp hj =>
    have hp2 : s.phase = 2#3 := phaseOf_eq_some_iff.mp hp
    obtain rfl := hi hj
    simpa [stepsAfterUop, hp2] using stepsLeft_afterCheck_le (s := s.noAction) 0 hw
  | checkByte hp hj =>
    have hp3 : s.phase = 3#3 := phaseOf_eq_some_iff.mp hp
    obtain rfl := hi hj
    cases hc with
    | address hp2 => rw [hp3] at hp2; cases hp2
    | transmit _ hrw =>
      refine Eq.trans_le (CurrentUop.stepsLeft_of_begun (i := .checkAck) (.checkByte hp3 hrw) (issue_uopWord _ _) rfl
        rfl hw) ?_
      simp [stepsAfterUop, hp3]
  | byteChecked hp hj =>
    have hp3 : s.phase = 3#3 := phaseOf_eq_some_iff.mp hp
    obtain rfl := hi hj
    simpa [stepsAfterUop, hp3, nextIdx_eq hf (hin hp3), Nat.sub_sub] using
      stepsLeft_afterCheck_le (s := s.noAction) (nextIdx s) hw
  | received hp hj =>
    have hp3 : s.phase = 3#3 := phaseOf_eq_some_iff.mp hp
    obtain rfl := hi hj
    simp [stepsLeft, stepsAfterUop, hp3, payloadCost]
  | acknowledged hp hj =>
    have hp3 : s.phase = 3#3 := phaseOf_eq_some_iff.mp hp
    have hle := stepsLeft_payloadLoop_le (s := s.noAction) (nextIdx s) hw
    rcases hj.imp hi hi with rfl | rfl <;>
      simpa [stepsAfterUop, hp3, nextIdx_eq hf (hin hp3), Nat.sub_sub] using hle
  | stopped hp hj =>
    have hp4 : s.phase = 4#3 := phaseOf_eq_some_iff.mp hp
    simp [stepsLeft, stepsAfterUop, hp4]

/-! ### The buffer accesses and a whole step -/

/-- The read of a payload byte goes on to its transmission. -/
theorem stepsLeft_readPayload (h : ControlSound s) (hp : s.phase ≠ 0#3) (hd : s.due = .memRead)
    (he : readPayload s = .next r) : stepsLeft r < stepsLeft s := by
  obtain ⟨hp3, hw⟩ := h.access hp (.inl hd)
  obtain ⟨hrw, -⟩ := h.read hp3 hd
  obtain ⟨-, rfl⟩ := readPayload_next he
  refine Eq.trans_lt (CurrentUop.stepsLeft_of_begun (i := .txByte (readByte s.mem s.byteAddr)) (.transmit hp3 hrw)
    (issue_uopWord _ s) rfl rfl hw) ?_
  simp [stepsLeft, stepsAfterUop, hp3, hd, payloadCost, uopCost, opLength]
  omega

/-- The write of a received byte goes on to the answer to it. -/
theorem stepsLeft_writePayload (h : ControlSound s) (hp : s.phase ≠ 0#3) (hd : s.due = .memWrite)
    (he : writePayload s = .next r) : stepsLeft r < stepsLeft s := by
  obtain ⟨hp3, hw⟩ := h.access hp (.inr hd)
  obtain ⟨hrw, -⟩ := h.write hp3 hd
  obtain ⟨-, hin, -⟩ := h.data hp3
  obtain ⟨-, rfl⟩ := writePayload_next he
  by_cases hlast : s.idx + 1 = s.len
  · rw [if_pos hlast]
    refine Eq.trans_lt (CurrentUop.stepsLeft_of_begun (i := .sendNack) (.nack hp3 hrw hlast) (issue_uopWord _ s) rfl rfl
      hw) ?_
    simp [stepsLeft, stepsAfterUop, hp3, hd, payloadCost, uopCost, opLength]
  · rw [if_neg hlast]
    have hmore : s.idx + 1 < s.len := by omega
    refine Eq.trans_lt (CurrentUop.stepsLeft_of_begun (i := .sendAck) (.ack hp3 hrw hmore) (issue_uopWord _ s) rfl rfl
      hw) ?_
    simp [stepsLeft, stepsAfterUop, hp3, hd, payloadCost, uopCost, opLength]

/-- The core's part of a step of a command is a poll that waits, or it lowers the bound. -/
theorem stepsLeft_coreStep (hf : FitsWidths s) (h : ControlSound s) (hrst : s.now.rst = false) (hp : s.phase ≠ 0#3)
    (hr : CoreStep s r) : (Waiting s ∧ r = s.noAction) ∨ (¬ Waiting s ∧ stepsLeft r < stepsLeft s) := by
  have hno (hd : s.due ≠ .uop) : ¬ Waiting s := fun ⟨hrun, _⟩ => hd hrun
  cases hr with
  | reset hfetch => exact absurd (hrst.symm.trans (fetchedWhen_of_fetch hfetch)) Bool.false_ne_true
  | wait hfetch => exact absurd (fetchedWhen_of_fetch hfetch) hp
  | run i r hfetch he =>
    obtain ⟨hc, hperf, hd⟩ := h.performing_of_run hp hfetch
    have hacted := exec_acted hc.compound he
    have hperf' := exec_performing hc.compound hperf hd he
    refine (uopLeft_exec hc.compound hperf hd he).imp_right fun ⟨hwait, hlt⟩ => ⟨hwait, ?_⟩
    rw [hc.stepsLeft_eq hperf.1 (.inl hd), (hc.of_acted hacted).stepsLeft_eq hperf'.1 hperf'.due_cases,
      stepsAfterUop_of_acted hacted]
    exact Nat.add_lt_add_right hlt _
  | choose r hfetch he =>
    obtain ⟨-, hd⟩ := fetchedWhen_of_fetch hfetch
    obtain ⟨i, hc, hperf⟩ := h.currentUop hp (.inr hd)
    obtain ⟨-, hin⟩ := h.admitted hp
    have hle := stepsLeft_of_choice hf hin hc hperf hd (sequence_next he)
    refine .inr ⟨hno (by simp [hd]), ?_⟩
    rw [hc.stepsLeft_of_ended hperf hd]
    omega
  | memRead r hfetch he =>
    obtain ⟨-, hd⟩ := fetchedWhen_of_fetch hfetch
    exact .inr ⟨hno (by simp [hd]), stepsLeft_readPayload h hp hd he⟩
  | memWrite r hfetch he =>
    obtain ⟨-, hd⟩ := fetchedWhen_of_fetch hfetch
    exact .inr ⟨hno (by simp [hd]), stepsLeft_writePayload h hp hd he⟩
  | complete hfetch =>
    obtain ⟨-, hd⟩ := fetchedWhen_of_fetch hfetch
    obtain ⟨hp4, -⟩ := h.complete hp hd
    exact .inr ⟨hno (by simp [hd]), by simp [stepsLeft, hp4, hd]⟩

/-- The bound reads nothing that the environment changes. -/
theorem stepsLeft_envStep (s : State) : stepsLeft (envStep s) = stepsLeft s := rfl

end Sys2Proof.Safety

namespace Sys2Proof

open Machine Safety

/-- Settles O51: each part of the core's step but a poll that waits lowers the bound, and the environment's keeps it. -/
theorem everyStepButAWaitMakesProgress : Obligations.EveryStepButAWaitMakesProgress := by
  unfold Obligations.EveryStepButAWaitMakesProgress
  rintro s t ⟨hf, hc, -⟩ hp hrst hst
  obtain ⟨r, hr, rfl⟩ := step_next hst
  rw [stepsLeft_envStep]
  rcases stepsLeft_coreStep hf hc hrst hp hr with ⟨hwait, rfl⟩ | ⟨hwait, hlt⟩
  · exact ⟨fun _ => rfl, fun hno => absurd hwait hno⟩
  · exact ⟨fun h => absurd h hwait, fun _ => hlt⟩

end Sys2Proof
end

section
/-! The drive states of SCL and SDA: what each part of a step does to them, and that they follow the step lists
(41_start_stop R112, 42_byte_shift R120, R121, 43_ack R140 to R142). -/

namespace Sys2Proof.Safety

open Sys2Proof.Machine

variable {s r : State} {i : Instr} {p : Option Drive × Option Drive} {c d k : Nat}

/-! ### What an event does to a drive state -/

/-- What is known of the drive state of pin `c` after an event, from what was known before it
(40_delay_and_lines R92, R93). -/
def driveAfter (c : Nat) (o : Option Drive) : Event → Option Drive
  | .high r => if r = c then some .rel else o
  | .low r => if r = c then some .low else o
  | .sample _ _ | .delay | .memRead _ _ | .memWrite _ _ | .done _ => o

@[simp] theorem driveAfter_high (c r : Nat) (o : Option Drive) :
    driveAfter c o (.high r) = if r = c then some .rel else o := rfl

@[simp] theorem driveAfter_low (c r : Nat) (o : Option Drive) :
    driveAfter c o (.low r) = if r = c then some .low else o := rfl

@[simp] theorem driveAfter_delay (c : Nat) (o : Option Drive) : driveAfter c o .delay = o := rfl

@[simp] theorem driveAfter_sample (c r : Nat) (o : Option Drive) (v : Bit) : driveAfter c o (.sample r v) = o := rfl

@[simp] theorem driveAfter_bitEvent_same (d : Nat) (o : Option Drive) (v : Bit) :
    driveAfter d o (bitEvent d v) = if v = 1#1 then some .rel else some .low := by
  by_cases hv : v = 1#1 <;> simp [bitEvent, hv]

theorem driveAfter_bitEvent_of_ne (hne : c ≠ d) (o : Option Drive) (v : Bit) : driveAfter c o (bitEvent d v) = o := by
  by_cases hv : v = 1#1 <;> simp [bitEvent, hv, hne.symm]

/-- What is known of the drive states of SCL and SDA after an event. -/
def drivesAfter (c d : Nat) (p : Option Drive × Option Drive) (e : Event) : Option Drive × Option Drive :=
  (driveAfter c p.1 e, driveAfter d p.2 e)

theorem drv_of_driveAfter {o : Option Drive} {e : Event} (h : ∀ x, o = some x → s.drv c = x) (he : Emits [e] s r)
    (x : Drive) (hx : driveAfter c o e = some x) : r.drv c = x := by
  rw [he.drv_eq, he.trace]
  cases e with
  | high k | low k =>
    simp only [driveAfter_high, driveAfter_low] at hx
    split_ifs at hx with hk
    · cases hx
      simp [hk]
    · simpa [hk] using h x hx
  | sample | delay | memRead | memWrite | done => simpa using h x hx

/-- The drive states follow the events of a step. -/
theorem Drives.emits {es : List Event} (h : Drives s p) (he : Emits es s r) (hscl : r.sclRef = s.sclRef)
    (hsda : r.sdaRef = s.sdaRef) : Drives r (es.foldl (drivesAfter s.sclRef s.sdaRef) p) := by
  unfold Drives
  rw [hscl, hsda]
  match es, he with
  | [], he =>
    have hdrv (x : Nat) : r.drv x = s.drv x := by rw [State.drv, he.drvLow]; rfl
    rw [hdrv, hdrv]
    exact h
  | [e], he => exact ⟨drv_of_driveAfter h.1 he, drv_of_driveAfter h.2 he⟩
  | _ :: _ :: _, he => exact absurd he.atMostOne (by simp)

/-! ### The step lists -/

/-- The step lists give SCL and SDA the drive states of their line actions. -/
theorem drivesAt_succ {v : Bit} {e : Event} (hi : compound i = true) (hk : k < opLength i) (hne : c ≠ d)
    (he : actionEvent c d i k v = some e) : drivesAt i (k + 1) = drivesAfter c d (drivesAt i k) e := by
  cases i with
  | start | stop | checkAck | sendAck | sendNack =>
    simp only [opLength] at hk
    interval_cases k <;> cases he <;> simp [drivesAt, drivesAfter, hne, hne.symm]
  | txByte b =>
    simp only [actionEvent, txTrace_getElem? c d b hk] at he
    have hmod : k % 5 < 5 := Nat.mod_lt k (by decide)
    have hbit : k % 5 ≠ 0 → k ≠ 0 ∧ (k - 1) / 5 = k / 5 := by omega
    have hnext : (k + 1) % 5 = (k % 5 + 1) % 5 := by omega
    simp only [drivesAt, hnext]
    generalize k % 5 = j at he hmod hbit
    interval_cases j <;> obtain rfl := Option.some.inj he
    · simp [drivesAfter, driveAfter_bitEvent_of_ne hne]
    all_goals simp [drivesAfter, hne, hbit (by decide)]
  | rxByte =>
    cases k with
    | zero => cases he; simp [drivesAt, drivesAfter, hne.symm]
    | succ k =>
      simp only [actionEvent, rxTrace_getElem?_succ c d _ (Nat.lt_of_succ_lt_succ hk)] at he
      have hmod : k % 5 < 5 := Nat.mod_lt k (by decide)
      have hhere : (k + 1) % 5 = (k % 5 + 1) % 5 := by omega
      have hnext : (k + 1 + 1) % 5 = (k % 5 + 2) % 5 := by omega
      simp only [drivesAt, hhere, hnext]
      generalize k % 5 = j at he hmod
      interval_cases j <;> obtain rfl := Option.some.inj he <;> simp [drivesAfter, hne]
  | write | read | delayHalf | lineHigh | lineLow | lineRead => cases hi

/-- A delay leaves the drive states alone. -/
theorem drivesAt_succ_of_delay (hi : compound i = true) (hk : k < opLength i) (hd : delayAt i k = true) :
    drivesAt i (k + 1) = drivesAt i k :=
  drivesAt_succ (c := 0) (d := 1) (v := 0#1) hi hk (by decide)
    ((actionEvent_eq_stepList hi _ _ _ _).trans (stepList_getElem?_delay hi hk hd _ _ _ _))

/-- Every micro-op but START begins with SCL driven low and with SDA in either state. -/
theorem drivesAt_first (hi : compound i = true) (hne : i ≠ .start) : drivesAt i 0 = (some .low, none) := by
  cases i with
  | start => exact absurd rfl hne
  | stop | txByte | rxByte | checkAck | sendAck | sendNack => rfl
  | write | read | delayHalf | lineHigh | lineLow | lineRead => cases hi

/-! ### Where the sequencer stands -/

/-- SCL and SDA have the drive states that the step list of micro-op `i` gives them at the position reached. -/
def OnStepList (i : Instr) (s : State) : Prop :=
  (s.due = .uop → Drives s (drivesAt i s.upos)) ∧ (s.due = .ended → Drives s (drivesAt i (opLength i)))

theorem DrivesSound.onStepList (h : DrivesSound s) (hp : s.phase ≠ 0#3) (hu : s.uopWord = encode i) :
    OnStepList i s := by
  obtain ⟨hrun, hended, -⟩ := h hp
  exact ⟨fun hd => hrun i hd hu, fun hd => hended i hd hu⟩

theorem DrivesSound.of_onStepList (hu : s.uopWord = encode i) (hd : s.due = .uop ∨ s.due = .ended)
    (h : OnStepList i s) : DrivesSound s := by
  have heq {j : Instr} (hj : s.uopWord = encode j) : i = j := encode_injective (hu.symm.trans hj)
  refine fun _ => ⟨fun j hrun hj => heq hj ▸ h.1 hrun, fun j hended hj => heq hj ▸ h.2 hended, fun h' => ?_, fun h' => ?_⟩
  all_goals rcases hd with hd | hd <;> simp [hd] at h'

/-- A micro-op that begins finds SCL driven low. -/
theorem DrivesSound.of_begun (hi : compound i = true) (hne : i ≠ .start) (hu : s.uopWord = encode i) (hd : s.due = .uop)
    (hk : s.upos = 0) (hscl : s.drv s.sclRef = .low) : DrivesSound s := by
  refine .of_onStepList hu (.inl hd) ⟨fun _ => ?_, fun h => absurd (hd.symm.trans h) (by decide)⟩
  rw [hk, drivesAt_first hi hne]
  exact ⟨fun x hx => hscl.trans (Option.some.inj hx), nofun⟩

theorem DrivesSound.of_access (hd : s.due = .memRead ∨ s.due = .memWrite) (h : Drives s (some .low, some .rel)) :
    DrivesSound s := by
  refine fun _ => ⟨fun _ h' => ?_, fun _ h' => ?_, fun _ => h, fun h' => ?_⟩
  all_goals rcases hd with hd | hd <;> simp [hd] at h'

theorem DrivesSound.of_complete (hd : s.due = .complete) (h : Drives s (some .rel, some .rel)) : DrivesSound s := by
  refine fun _ => ⟨fun _ h' => ?_, fun _ h' => ?_, fun h' => ?_, fun _ => h⟩
  all_goals simp [hd] at h'

theorem Drives.scl_low {o : Option Drive} (h : Drives s (some .low, o)) : s.drv s.sclRef = .low := h.1 _ rfl

/-! ### An action -/

/-- An action of a micro-op keeps the drive states of its step list. -/
theorem OnStepList.exec (h : OnStepList i s) (hi : compound i = true) (hperf : Performing i s) (hd : s.due = .uop)
    (hne : s.sclRef ≠ s.sdaRef) (he : exec i s = .next r) : OnStepList i r := by
  obtain ⟨-, hlt, -, hshift⟩ := hperf.running hd
  have hacted := exec_acted hi he
  obtain ⟨es, hes⟩ := hacted.emits
  have hr := (h.1 hd).emits hes hacted.sclRef_eq hacted.sdaRef_eq
  cases exec_microOpStep hi hshift he with
  | acts hact =>
    obtain rfl := List.append_cancel_left (hes.trace.symm.trans hact.trace)
    refine ⟨fun _ => ?_, fun hd' => absurd ((hact.due.trans hd).symm.trans hd') (by decide)⟩
    rw [hact.upos, drivesAt_succ hi hlt hne hact.event]
    exact hr
  | delayBegins | waits => exact h
  | delayEnds hend =>
    obtain rfl : es = [] := by simpa [hend.trace] using hes.trace
    have hnext : Drives r (drivesAt i (s.upos + 1)) := by
      rw [drivesAt_succ_of_delay hi hlt hend.delay]
      exact hr
    have hpos := hend.position
    split at hpos
    · rename_i hlast
      exact ⟨fun hd' => absurd (hpos.2.symm.trans hd') (by decide), fun _ => hlast ▸ hnext⟩
    · rw [← hpos.1] at hnext
      exact ⟨fun _ => hnext, fun hd' => absurd ((hpos.2.trans hd).symm.trans hd') (by decide)⟩

/-! ### A choice of the sequencer -/

/-- The loop test, after a byte was acknowledged or received. -/
theorem drivesSound_payloadLoop (h : Drives s (some .low, some .rel)) (n : Nat) : DrivesSound (payloadLoop n s) := by
  rcases payloadLoop_cases n s with ⟨-, hl⟩ | ⟨-, -, hl⟩ | ⟨-, -, hl⟩ <;> rw [hl]
  · exact .of_begun (i := .stop) rfl nofun (enterStop_uopWord _ _) rfl rfl h.scl_low
  · exact .of_access (.inl rfl) h
  · exact .of_begun (i := .rxByte) rfl nofun (issue_uopWord .rxByte { s with idx := n }) rfl rfl h.scl_low

/-- The branch after CHECK_ACK. -/
theorem drivesSound_afterCheck (h : Drives s (some .low, some .rel)) (n : Nat) : DrivesSound (afterCheck n s) := by
  rcases afterCheck_cases n s with ⟨-, hl⟩ | ⟨-, hl⟩ <;> rw [hl]
  · exact .of_begun (i := .stop) rfl nofun (enterStop_uopWord _ _) rfl rfl h.scl_low
  · exact drivesSound_payloadLoop h n

/-- What follows a micro-op that has ended finds the drive states it needs. -/
theorem drivesSound_of_choice (hi : compound i = true) (hu : s.uopWord = encode i)
    (h : Drives s (drivesAt i (opLength i))) (hr : Choice s r) : DrivesSound r := by
  have heq {j : Instr} (hj : decodeUop s.uopWord = .ok j) : i = j := by
    rw [hu, decodeUop_encode hi] at hj
    exact Except.ok.inj hj
  cases hr with
  | address _ hj =>
    obtain rfl := heq hj
    exact .of_begun (i := .txByte s.addrByte) rfl nofun (enterAddress_uopWord _) rfl rfl h.scl_low
  | checkAddress _ hj | checkByte _ hj =>
    obtain rfl := heq hj
    exact .of_begun (i := .checkAck) rfl nofun (issue_uopWord _ _) rfl rfl
      (h.1 _ (if_neg (by simp [opLength])))
  | addressChecked _ hj | byteChecked _ hj =>
    obtain rfl := heq hj
    exact drivesSound_afterCheck (s := s.noAction) h _
  | received _ hj =>
    obtain rfl := heq hj
    exact .of_access (.inr rfl) h
  | acknowledged _ hj =>
    rcases hj.imp heq heq with rfl | rfl <;> exact drivesSound_payloadLoop (s := s.noAction) h _
  | stopped _ hj =>
    obtain rfl := heq hj
    exact .of_complete rfl h

/-! ### A whole step -/

/-- Accept begins START, which finds either line in either state (41_start_stop R112). -/
theorem drivesSound_latchCommand (o : Offer) (s : State) : DrivesSound (latchCommand o s) :=
  .of_onStepList (i := .start) (issue_uopWord .start s.noAction) (.inl rfl) ⟨fun _ => ⟨nofun, nofun⟩, nofun⟩

/-- The core's part of a step. -/
theorem Sound.drives_coreStep (h : Sound s) (hr : CoreStep s r) : DrivesSound r := by
  obtain ⟨-, hc, hdrives⟩ := h
  have hidle {a : State} (h0 : a.phase = 0#3) : DrivesSound a := fun hp => absurd h0 hp
  cases hr with
  | reset | complete => exact hidle rfl
  | wait hf => exact hidle (fetchedWhen_of_fetch hf)
  | run i r hf he =>
    by_cases hp : s.phase = 0#3
    · rcases exec_next he with ha | ⟨-, -, rfl⟩
      · exact hidle (ha.phase_eq.trans hp)
      · exact drivesSound_latchCommand _ s
    · obtain ⟨hcur, hperf, hd⟩ := hc.performing_of_run hp hf
      have hi := hcur.compound
      obtain ⟨⟨-, -, hne, -⟩, -⟩ := hc.admitted hp
      have hperf' := exec_performing hi hperf hd he
      exact .of_onStepList hperf'.1 hperf'.due_cases ((hdrives.onStepList hp hperf.1).exec hi hperf hd hne he)
  | choose r hf he =>
    obtain ⟨hp, hd⟩ := fetchedWhen_of_fetch hf
    obtain ⟨i, hcur, hperf⟩ := hc.currentUop hp (.inr hd)
    exact drivesSound_of_choice hcur.compound hperf.1 ((hdrives.onStepList hp hperf.1).2 hd) (sequence_next he)
  | memRead r hf he =>
    obtain ⟨hp, hd⟩ := fetchedWhen_of_fetch hf
    obtain ⟨-, -, haccess, -⟩ := hdrives hp
    obtain ⟨-, rfl⟩ := readPayload_next he
    exact .of_begun (i := .txByte (readByte s.mem s.byteAddr)) rfl nofun (issue_uopWord _ s) rfl rfl
      (haccess (.inl hd)).scl_low
  | memWrite r hf he =>
    obtain ⟨hp, hd⟩ := fetchedWhen_of_fetch hf
    obtain ⟨-, -, haccess, -⟩ := hdrives hp
    obtain ⟨-, rfl⟩ := writePayload_next he
    refine .of_begun (i := if s.idx + 1 = s.len then .sendNack else .sendAck) ?_ ?_ (issue_uopWord _ s) rfl rfl
      (haccess (.inr hd)).scl_low
    · split <;> rfl
    · split <;> nofun

/-- While the block is busy the environment drives neither line (20_memory R62). -/
theorem Drives.envStep (h : Drives s p) (hb : s.busy = 1#1) : Drives (envStep s) p :=
  ⟨fun x hx => (envStep_drv_of_busy hb (.inl rfl)).trans (h.1 x hx),
    fun x hx => (envStep_drv_of_busy hb (.inr rfl)).trans (h.2 x hx)⟩

theorem DrivesSound.envStep (h : DrivesSound s) (hc : ControlSound s) : DrivesSound (envStep s) := by
  intro hp
  obtain ⟨⟨hstatus, -⟩, -⟩ := hc.admitted hp
  have hkeep {p : Option Drive × Option Drive} (h : Drives s p) : Drives (Machine.envStep s) p :=
    h.envStep (busy_of_status hstatus)
  obtain ⟨hrun, hended, haccess, hcomplete⟩ := h hp
  exact ⟨fun i hd hu => hkeep (hrun i hd hu), fun i hd hu => hkeep (hended i hd hu), fun hd => hkeep (haccess hd),
    fun hd => hkeep (hcomplete hd)⟩

end Sys2Proof.Safety

namespace Sys2Proof

open Machine Safety

/-- Settles O45: each of the core's seven kinds of step keeps SCL and SDA on the step lists, and the environment drives
neither. -/
theorem driveStatesFollowTheStepLists : Obligations.DriveStatesFollowTheStepLists := by
  unfold Obligations.DriveStatesFollowTheStepLists
  intro s t hs hst
  obtain ⟨-, hc, -⟩ := id hs
  obtain ⟨r, hr, rfl⟩ := step_next hst
  exact (hs.drives_coreStep hr).envStep (hc.coreStep hr)

end Sys2Proof
end

section
/-! While SCL is released SDA changes only by START and STOP (41_start_stop R112). -/

namespace Sys2Proof.Safety

open Sys2Proof.Machine

variable {s r : State} {i : Instr} {c d k : Nat}

/-- Where a step list drives SDA while it does not hold SCL low (41_start_stop R112). -/
theorem drivesSda_cases {v : Bit} {e : Event} (hi : compound i = true) (hk : k < opLength i) (hne : c ≠ d)
    (he : actionEvent c d i k v = some e) (hsda : e = .high d ∨ e = .low d) (hscl : (drivesAt i k).1 ≠ some .low) :
    (i = .start ∧ k = 3) ∨ (i = .stop ∧ k = 5) ∨ (i = .start ∧ k = 0 ∧ e = .high d) := by
  cases i with
  | start | stop | checkAck | sendAck | sendNack =>
    simp only [opLength] at hk
    interval_cases k <;> cases he <;> simp [drivesAt, hne] at hsda hscl ⊢
  | txByte b =>
    simp only [actionEvent, txTrace_getElem? c d b hk] at he
    have hmod : k % 5 < 5 := Nat.mod_lt k (by decide)
    simp only [drivesAt] at hscl
    generalize k % 5 = j at he hmod hscl
    interval_cases j <;> obtain rfl := Option.some.inj he <;> simp [hne] at hsda hscl
  | rxByte =>
    cases k with
    | zero => simp [drivesAt] at hscl
    | succ k =>
      simp only [actionEvent, rxTrace_getElem?_succ c d _ (Nat.lt_of_succ_lt_succ hk)] at he
      have hmod : k % 5 < 5 := Nat.mod_lt k (by decide)
      generalize k % 5 = j at he hmod
      interval_cases j <;> obtain rfl := Option.some.inj he <;> simp [hne] at hsda
  | write | read | delayHalf | lineHigh | lineLow | lineRead => cases hi

/-- While a command runs and an action is due, the step is that action. -/
theorem exec_of_due (hr : CoreStep s r) (hrst : s.now.rst = false) (hp : s.phase ≠ 0#3) (hd : s.due = .uop) :
    ∃ i, fetch s = .run i ∧ exec i s = .next r := by
  cases hr with
  | run i r hf he => exact ⟨i, hf, he⟩
  | reset hf => exact absurd (hrst.symm.trans (fetchedWhen_of_fetch hf)) Bool.false_ne_true
  | wait hf => exact absurd (fetchedWhen_of_fetch hf) hp
  | complete hf | choose r hf | memRead r hf | memWrite r hf =>
    obtain ⟨-, hd'⟩ := fetchedWhen_of_fetch hf
    rw [hd] at hd'
    cases hd'

/-- A part of a step that changes the drive state of a pin has a line action on that pin. -/
theorem trace_of_drv_ne (hr : CoreStep s r) (h : r.drv c ≠ s.drv c) :
    r.trace = s.trace ++ [.high c] ∨ r.trace = s.trace ++ [.low c] := by
  obtain ⟨es, hes⟩ := hr.emits
  by_contra hno
  obtain ⟨hhigh, hlow⟩ := not_or.mp hno
  rw [hes.drv_eq, if_neg hhigh, if_neg hlow] at h
  exact h rfl

/-- A part of a step of a command that changes the drive state of SDA is a line action of its micro-op. -/
theorem ControlSound.actsAt_of_sda (h : ControlSound s) (hrst : s.now.rst = false) (hp : s.phase ≠ 0#3)
    (hr : CoreStep s r) (hsda : r.drv s.sdaRef ≠ s.drv s.sdaRef) :
    s.due = .uop ∧ ∃ i e, compound i = true ∧ Performing i s ∧ ActsAt i s e r ∧
      (e = .high s.sdaRef ∨ e = .low s.sdaRef) := by
  obtain ⟨es, hes⟩ := hr.emits
  have hdrives : ¬ DrivesNoLine s r := fun hno => hsda (hno.drv_eq hes _)
  have hd : s.due = .uop := by
    by_contra hd
    exact hdrives (hr.drivesNoLine_of_due hp hd)
  obtain ⟨i, hf, he⟩ := exec_of_due hr hrst hp hd
  obtain ⟨hcur, hperf, -⟩ := h.performing_of_run hp hf
  have hi := hcur.compound
  obtain ⟨-, -, -, hshift⟩ := hperf.running hd
  have hdelay : delayAt i s.upos = false := eq_false_of_ne_true fun hdelay =>
    hdrives (drivesNoLine_of_passive hi hperf hd he (.inl hdelay))
  obtain ⟨e, hact⟩ := (exec_microOpStep hi hshift he).actsAt hdelay
  refine ⟨hd, i, e, hi, hperf, hact, ?_⟩
  simpa [hact.trace] using trace_of_drv_ne hr hsda

end Sys2Proof.Safety

namespace Sys2Proof

open Machine Safety

/-- Settles O42: SDA changes by a line action of the micro-op only, and a step list that drives SDA holds SCL low but at
the three places named. -/
theorem noOtherStartOrStopCondition : Obligations.NoOtherStartOrStopCondition := by
  unfold Obligations.NoOtherStartOrStopCondition
  intro s t hs hrst hp hd hst hscl hsda
  obtain ⟨r, hr, rfl⟩ := step_next hst
  rw [hs.drv_envStep hrst hp hd hr (.inr rfl)] at hsda
  obtain ⟨-, hc, hdrives⟩ := hs
  obtain ⟨⟨-, -, hne, -⟩, -⟩ := hc.admitted hp
  obtain ⟨hd, i, e, hi, hperf, hact, he⟩ := hc.actsAt_of_sda hrst hp hr hsda
  obtain ⟨hu, hlt, -⟩ := hperf.running hd
  obtain ⟨hat, -⟩ := hdrives.onStepList hp hu
  have hfree : (drivesAt i s.upos).1 ≠ some .low := fun hlow => by
    have hlow' := (hat hd).1 _ hlow
    rw [hscl] at hlow'
    cases hlow'
  refine ⟨hd, ?_⟩
  rcases drivesSda_cases hi hlt hne hact.event he hfree with ⟨rfl, hk⟩ | ⟨rfl, hk⟩ | ⟨rfl, hk, rfl⟩
  · exact .inl ⟨hu, hk, (hat hd).2 _ (by rw [hk]; rfl)⟩
  · exact .inr (.inl ⟨hu, hk, (hat hd).2 _ (by rw [hk]; rfl)⟩)
  · refine .inr (.inr ⟨hu, hk, ?_⟩)
    obtain ⟨es, hes⟩ := hr.emits
    rw [hes.drv_eq, if_pos hact.trace] at hsda
    cases h : s.drv s.sdaRef with
    | low => rfl
    | rel => exact absurd h.symm hsda

end Sys2Proof
end

section
/-! A compound micro-op as a whole, by the machine's own steps while the timer keeps advancing: its whole step list is
emitted, and the lines are left as the step list says (41_start_stop R110 to R112, 40_delay_and_lines R91,
70_reset_and_hazards R216). -/

namespace Sys2Proof.Safety

open Sys2Proof.Machine

variable {s r t u : State} {i : Instr} {c d k : Nat} {x : Inputs} {e ins rest : List Inputs}

/-! ### The steps of a micro-op -/

/-- The steps of micro-op `i` from action `k` on when no poll waits: one for a line action, two for a delay. -/
def stepsFrom (i : Instr) (k : Nat) : Nat :=
  ((List.range' k (opLength i - k)).map fun j => if delayAt i j then 2 else 1).sum

theorem stepsFrom_of_lt (hk : k < opLength i) :
    stepsFrom i k = (if delayAt i k then 2 else 1) + stepsFrom i (k + 1) := by
  rw [stepsFrom, show opLength i - k = opLength i - (k + 1) + 1 by omega, List.range'_succ, List.map_cons, List.sum_cons]
  rfl

theorem stepsFrom_opLength (i : Instr) : stepsFrom i (opLength i) = 0 := by simp [stepsFrom]

/-- The steps that micro-op `i` still needs when no poll waits. -/
def stepsToGo (i : Instr) (s : State) : Nat := stepsFrom i s.upos - s.dlyWait.toNat

/-- Micro-op `i` of a running command is at one of its actions, and a delay it is in is over. -/
structure Underway (i : Instr) (s : State) : Prop where
  compound : compound i = true
  performing : Performing i s
  due : s.due = .uop
  running : Running s
  status : s.status = 0x01#8
  ready : s.dlyWait = 1#1 → s.par.halfTicks ≤ s.tcnt

/-- What steps of micro-op `i` from `s` to `t` do: they emit what they add to the micro-op's trace, the lines follow those
events, and nothing else of the command changes (10_state R33, R42). -/
structure RunsTo (i : Instr) (s t : State) : Prop where
  par : t.par = s.par
  command : SameCommand s t
  status : t.status = s.status
  phase : t.phase = s.phase
  idx : t.idx = s.idx
  uopWord : t.uopWord = s.uopWord
  shift : (∀ b, i ≠ .txByte b) → i ≠ .rxByte → t.sr = s.sr ∧ t.bitcnt = s.bitcnt
  ackbit : i ≠ .checkAck → t.ackbit = s.ackbit
  emits : ∃ es, t.trace = s.trace ++ es ∧ uopSoFar t = uopSoFar s ++ es ∧
    ∀ p, Drives s p → Drives t (es.foldl (drivesAfter s.sclRef s.sdaRef) p)

theorem RunsTo.trans (h : RunsTo i s t) (h' : RunsTo i t u) : RunsTo i s u := by
  obtain ⟨hcmd, hlen, hbuf, hscl, hsda⟩ := h.command
  obtain ⟨hcmd', hlen', hbuf', hscl', hsda'⟩ := h'.command
  obtain ⟨es, htr, hso, hdr⟩ := h.emits
  obtain ⟨es', htr', hso', hdr'⟩ := h'.emits
  refine ⟨h'.par.trans h.par, ⟨hcmd'.trans hcmd, hlen'.trans hlen, hbuf'.trans hbuf, hscl'.trans hscl, hsda'.trans hsda⟩,
    h'.status.trans h.status, h'.phase.trans h.phase, h'.idx.trans h.idx, h'.uopWord.trans h.uopWord,
    fun htx hrx => ?_, fun hck => (h'.ackbit hck).trans (h.ackbit hck), es ++ es', ?_, ?_, fun p hp => ?_⟩
  · obtain ⟨hsr, hbit⟩ := h.shift htx hrx
    obtain ⟨hsr', hbit'⟩ := h'.shift htx hrx
    exact ⟨hsr'.trans hsr, hbit'.trans hbit⟩
  · rw [htr', htr, List.append_assoc]
  · rw [hso', hso, List.append_assoc]
  · rw [List.foldl_append, ← hscl, ← hsda]
    rw [← hscl, ← hsda] at hdr
    exact hdr' _ (hdr p hp)

theorem RunsTo.sameEngines (h : RunsTo i s t) (htx : ∀ b, i ≠ .txByte b) (hrx : i ≠ .rxByte) (hck : i ≠ .checkAck) :
    SameEngines s t := by
  obtain ⟨hsr, hbit⟩ := h.shift htx hrx
  exact ⟨hsr, hbit, h.ackbit hck⟩

/-! ### One step -/

theorem Underway.exec_runsTo (h : Underway i s) (he : exec i s = .next r) : RunsTo i s (envStep r) := by
  have hi := h.compound
  have hacted := exec_acted hi he
  have hkeeps := exec_keepsRest hi he
  obtain ⟨-, -, -, -, -, -, -, -, hidx, -⟩ := hacted.sameControl
  obtain ⟨⟨es, htrace, hsofar⟩, -⟩ := uopSoFar_exec hi h.performing h.due he
  obtain ⟨es', hes⟩ := hacted.emits
  obtain rfl := List.append_cancel_left (htrace.symm.trans hes.trace)
  have hbusy : r.busy = 1#1 := busy_of_status (hacted.status_eq.trans h.status)
  exact ⟨hacted.par_eq, hacted.sameCommand, hacted.status_eq, hacted.phase_eq, hidx, hacted.uopWord_eq, hkeeps.shift,
    hkeeps.ackbit, es, htrace, hsofar, fun p hp => (hp.emits hes hacted.sclRef_eq hacted.sdaRef_eq).envStep hbusy⟩

/-- Between two steps the timer of a prompt environment reaches the threshold (70_reset_and_hazards R216). -/
theorem ticked_of_prompt {p : Params} (h : Prompt p x) : p.halfTicks ≤ ticked p x 0 := by
  obtain ⟨-, hle, hlt⟩ := h
  rw [ticked, Nat.zero_add, if_pos hlt]
  exact hle

/-- A step of the core that does not wait goes one step on, and the next delay is over when it is polled. -/
theorem Underway.exec_progress (h : Underway i s) (hx : Prompt s.par s.now) (he : exec i s = .next r) :
    (r.due = .ended ∧ stepsToGo i s = 1) ∨
      (r.due = .uop ∧ stepsToGo i r + 1 = stepsToGo i s ∧
        (r.dlyWait = 1#1 → r.par.halfTicks ≤ ticked r.par s.now r.tcnt)) := by
  obtain ⟨-, hlt, hdw, hshift⟩ := h.performing.running h.due
  have hcount := stepsFrom_of_lt hlt
  simp only [stepsToGo]
  cases exec_microOpStep h.compound hshift he with
  | acts hact =>
    have hw : s.dlyWait = 0#1 :=
      (bit_cases _).resolve_right fun h1 => Bool.false_ne_true (hact.delay.symm.trans (hdw h1))
    rw [if_neg (by simp [hact.delay])] at hcount
    refine .inr ⟨hact.due.trans h.due, ?_, fun h1 => ?_⟩
    · rw [hact.upos, hact.dlyWait, hw, hcount]
      exact Nat.add_comm _ _
    · exact absurd ((hact.dlyWait.trans hw).symm.trans h1) (by decide)
  | delayBegins hdelay hw =>
    rw [if_pos hdelay] at hcount
    refine .inr ⟨h.due, ?_, fun _ => ticked_of_prompt hx⟩
    rw [beginDelay_upos, beginDelay_dlyWait, hw, hcount]
    bv_omega
  | waits _ hw ht => exact absurd (h.ready hw) (Nat.not_le.mpr ht)
  | delayEnds hend =>
    rw [if_pos hend.delay] at hcount
    have hpos := hend.position
    rw [hend.waiting, hcount]
    split at hpos
    · rename_i hlast
      exact .inl ⟨hpos.2, by rw [hlast, stepsFrom_opLength]; rfl⟩
    · refine .inr ⟨hpos.2.trans h.due, ?_, fun h1 => absurd (hend.dlyWait.symm.trans h1) (by decide)⟩
      rw [hpos.1, hend.dlyWait]
      bv_omega

/-- A step of micro-op `i` in a prompt environment. -/
theorem Underway.step (h : Underway i s) (henv : s.env = x :: e) (hx : Prompt s.par x) :
    ∃ t, step s = .next t ∧ t.env = e ∧ Performing i t ∧ RunsTo i s t ∧
      ((t.due = .ended ∧ stepsToGo i s = 1) ∨ (Underway i t ∧ stepsToGo i t + 1 = stepsToGo i s)) := by
  have hi := h.compound
  have hnow : s.now = x := by simp only [State.now, henv]
  obtain ⟨hu, hlt, -⟩ := h.performing.running h.due
  obtain ⟨r, he⟩ := exec_isNext hi hlt
  have hcore : CoreStep s r :=
    .run i r (fetch_of_uop (by rw [hnow]; exact hx.1) h.running h.due (hu ▸ decodeUop_encode hi)) he
  obtain ⟨-, hrenv, -⟩ := hcore.sameInputs
  have hruns := h.exec_runsTo he
  have hperf := exec_performing hi h.performing h.due he
  refine ⟨envStep r, step_of_coreStep hcore, by rw [envStep_env, hrenv, henv]; rfl, hperf, hruns, ?_⟩
  refine (h.exec_progress (hnow ▸ hx) he).imp_right fun ⟨hd, hcount, hready⟩ => ⟨⟨hi, hperf, hd, ?_, ?_, ?_⟩, hcount⟩
  · simpa only [Running, hruns.phase] using h.running
  · exact hruns.status.trans h.status
  · rw [envStep_tcnt, hcore.now_eq]
    exact hready

/-! ### The whole micro-op -/

theorem Underway.stepsToGo_pos (h : Underway i s) : 0 < stepsToGo i s := by
  obtain ⟨-, hlt, hdw, -⟩ := h.performing.running h.due
  have hcount := stepsFrom_of_lt hlt
  rw [stepsToGo]
  rcases bit_cases s.dlyWait with hw | hw
  · rw [hw, hcount]
    split <;> simp
  · rw [hw, hcount, if_pos (hdw hw)]
    bv_omega

/-- Micro-op `i` runs from any of its actions to its end. -/
theorem Underway.runs (h : Underway i s) (henv : s.env = ins ++ rest) (hins : ∀ x ∈ ins, Prompt s.par x)
    (hlen : ins.length = stepsToGo i s) :
    ∃ t, steps ins.length s = .next t ∧ t.due = .ended ∧ t.env = rest ∧ Performing i t ∧ RunsTo i s t := by
  induction ins generalizing s with
  | nil => exact absurd hlen (Nat.ne_of_lt h.stepsToGo_pos)
  | cons x ins ih =>
    obtain ⟨hx, hmore⟩ := List.forall_mem_cons.mp hins
    obtain ⟨t, hst, hte, hperf, hruns, hnext⟩ := h.step (e := ins ++ rest) henv hx
    rw [List.length_cons] at hlen ⊢
    simp only [steps, hst]
    rcases hnext with ⟨hd, hone⟩ | ⟨hunder, hcount⟩
    · obtain rfl : ins = [] := List.eq_nil_of_length_eq_zero (by omega)
      exact ⟨t, rfl, hd, hte, hperf, hruns⟩
    · obtain ⟨u, hsteps, hd, hue, hperf', hruns'⟩ := ih hunder hte (hruns.par ▸ hmore) (by omega)
      exact ⟨u, hsteps, hd, hue, hperf', hruns.trans hruns'⟩

theorem AtStartOf.underway (h : AtStartOf i s ins rest) (hi : compound i = true) : Underway i s := by
  obtain ⟨hstatus, hphase, -, hu, hd, hk, hw, -⟩ := h
  exact ⟨hi, .of_begun hi hu hd hk hw, hd, hphase, hstatus, fun h1 => absurd (hw.symm.trans h1) (by decide)⟩

/-- A whole step list leaves SCL and SDA in the drive states given at its end, whatever they were before it. -/
theorem foldl_stepList (hi : compound i = true) (hne : c ≠ d) (b : Byte) (a : Bit) :
    (stepList c d i b a).foldl (drivesAfter c d) (none, none) = drivesAt i (opLength i) := by
  cases i with
  | start | stop | checkAck | sendAck | sendNack =>
    simp [stepList, startTrace, stopTrace, checkTrace, sendAckTrace, sendNackTrace, drivesAfter, drivesAt, opLength, hne,
      hne.symm]
  | txByte v => simp [stepList, txTrace, wireBits, drivesAfter, driveAfter_bitEvent_of_ne hne, drivesAt, opLength, hne]
  | rxByte => simp [stepList, rxTrace, wireBits, drivesAfter, drivesAt, opLength, hne, hne.symm]
  | write | read | delayHalf | lineHigh | lineLow | lineRead => cases hi

/-- A compound micro-op runs from its first action to its end: its step list is emitted, and SCL and SDA are left as the
step list says. -/
theorem AtStartOf.runs (h : AtStartOf i s ins rest) (hi : compound i = true) (hlen : ins.length = stepsFrom i 0) :
    ∃ t, steps ins.length s = .next t ∧ EndedAfter s t rest (stepList s.sclRef s.sdaRef i t.sr t.ackbit) ∧
      RunsTo i s t ∧ Drives t (drivesAt i (opLength i)) := by
  have hunder := h.underway hi
  obtain ⟨-, -, hne, hu, hd, hk, hw, henv, hins⟩ := h
  have htogo : stepsToGo i s = stepsFrom i 0 := by rw [stepsToGo, hk, hw]; rfl
  obtain ⟨t, hsteps, hended, hte, hperf, hruns⟩ := hunder.runs henv hins (hlen.trans htogo.symm)
  obtain ⟨hcmd, hlen', hbuf, hscl, hsda⟩ := hruns.command
  obtain ⟨es, htrace, hsofar, hdrives⟩ := hruns.emits
  have hover : t.due ≠ .uop := by rw [hended]; decide
  have hbegun : uopSoFar s = [] := by rw [uopSoFar_of_running hd, hk, hw]; simp
  rw [uopSoFar_of_over hover, uopTrace_of_over hi (hruns.uopWord.trans hu) hover, hscl, hsda, hbegun,
    List.nil_append] at hsofar
  obtain ⟨-, ⟨hd', -⟩ | ⟨-, hpos, hwait⟩⟩ := hperf
  · exact absurd hd' hover
  refine ⟨t, hsteps, ⟨hsofar ▸ htrace, hended, hpos, hwait, hte, hruns.par, hcmd, hlen', hbuf, hscl, hsda, hruns.status,
    hruns.phase, hruns.idx, hruns.uopWord⟩, hruns, ?_⟩
  have hend := hdrives (none, none) ⟨nofun, nofun⟩
  rwa [← hsofar, foldl_stepList hi hne] at hend

/-- A micro-op that neither shifts nor samples runs to its end without changing a register of a sub-block. -/
theorem AtStartOf.runs_sameEngines {x y : Drive} (h : AtStartOf i s ins rest) (hi : compound i = true)
    (hlen : ins.length = stepsFrom i 0) (hend : drivesAt i (opLength i) = (some x, some y))
    (htx : ∀ b, i ≠ .txByte b) (hrx : i ≠ .rxByte) (hck : i ≠ .checkAck) :
    ∃ t, steps ins.length s = .next t ∧ EndedAfter s t rest (stepList s.sclRef s.sdaRef i t.sr t.ackbit) ∧
      t.drv s.sclRef = x ∧ t.drv s.sdaRef = y ∧ SameEngines s t := by
  obtain ⟨t, hsteps, hended, hruns, hdrives⟩ := h.runs hi hlen
  obtain ⟨-, -, -, hscl, hsda⟩ := hruns.command
  rw [hend] at hdrives
  exact ⟨t, hsteps, hended, hscl ▸ hdrives.1 x rfl, hsda ▸ hdrives.2 y rfl, hruns.sameEngines htx hrx hck⟩

end Sys2Proof.Safety

namespace Sys2Proof

open Machine Safety

/-- Settles O18: START has seven actions, three of them delays of two steps each, and at its end both lines are low. -/
theorem startRunsToItsEnd : Obligations.StartRunsToItsEnd := by
  unfold Obligations.StartRunsToItsEnd
  intro s ins rest h hlen
  have hruns := h.runs_sameEngines rfl hlen rfl nofun nofun nofun
  rwa [hlen] at hruns

/-- Settles O19: STOP has seven actions, three of them delays of two steps each, and at its end both lines are released. -/
theorem stopRunsToItsEnd : Obligations.StopRunsToItsEnd := by
  unfold Obligations.StopRunsToItsEnd
  intro s ins rest h hlen
  have hruns := h.runs_sameEngines rfl hlen rfl nofun nofun nofun
  rwa [hlen] at hruns

end Sys2Proof
end

section
/-! TX_BYTE and RX_BYTE as a whole: what `SR` and `BITCNT` hold at the end of a byte, and that the byte received is made of
the levels the bus gives at the eight samples (42_byte_shift R120 to R122). -/

namespace Sys2Proof.Safety

open Sys2Proof.Machine

variable {s r t : State} {i : Instr} {b : Byte} {k m : Nat} {ins rest : List Inputs}

/-! ### A property that every step of a micro-op keeps -/

/-- While micro-op `i` is underway a step of the machine is a step of `i` and then the environment's part. -/
theorem Underway.exec_of_step (h : Underway i s) (hrst : s.now.rst = false) (hst : Machine.step s = .next t) :
    ∃ r, exec i s = .next r ∧ t = envStep r := by
  obtain ⟨hu, hlt, -⟩ := h.performing.running h.due
  obtain ⟨r, he⟩ := exec_isNext h.compound hlt
  have hcore : CoreStep s r := .run i r (fetch_of_uop hrst h.running h.due (hu ▸ decodeUop_encode h.compound)) he
  exact ⟨r, he, Host.Outcome.next.inj (hst.symm.trans (step_of_coreStep hcore))⟩

/-- A property of the state and of the inputs still to come that every step of micro-op `i` keeps holds at its end. -/
theorem Underway.runs_keeping {P : List Inputs → State → Prop}
    (hkeep : ∀ {s r : State} {ins : List Inputs}, Underway i s → ins.length + 1 = stepsToGo i s →
      exec i s = .next r → P (s.now :: ins) s → P ins (envStep r))
    (h : Underway i s) (henv : s.env = ins ++ rest) (hins : ∀ x ∈ ins, Prompt s.par x)
    (hlen : ins.length = stepsToGo i s) (hp : P ins s) : ∃ t, steps ins.length s = .next t ∧ P [] t := by
  induction ins generalizing s with
  | nil => exact absurd hlen (Nat.ne_of_lt h.stepsToGo_pos)
  | cons x ins ih =>
    obtain ⟨hx, hmore⟩ := List.forall_mem_cons.mp hins
    have hnow : s.now = x := by simp only [State.now, henv, List.cons_append]
    obtain ⟨t, hst, hte, -, hruns, hnext⟩ := h.step (e := ins ++ rest) henv hx
    obtain ⟨r, he, rfl⟩ := h.exec_of_step (by rw [hnow]; exact hx.1) hst
    have hkept := hkeep h hlen he (by rwa [hnow])
    rw [List.length_cons] at hlen ⊢
    simp only [steps, hst]
    rcases hnext with ⟨-, hone⟩ | ⟨hunder, hcount⟩
    · obtain rfl : ins = [] := List.eq_nil_of_length_eq_zero (by omega)
      exact ⟨_, rfl, hkept⟩
    · exact ih hunder hte (hruns.par ▸ hmore) (by omega) hkept

/-- A compound micro-op runs from its first action to its end, and what its steps keep holds there. -/
theorem AtStartOf.runs_keeping {P : List Inputs → State → Prop} {x y : Drive}
    (hkeep : ∀ {s r : State} {ins : List Inputs}, Underway i s → ins.length + 1 = stepsToGo i s →
      exec i s = .next r → P (s.now :: ins) s → P ins (envStep r))
    (h : AtStartOf i s ins rest) (hi : compound i = true) (hlen : ins.length = stepsFrom i 0)
    (hend : drivesAt i (opLength i) = (some x, some y)) (hck : i ≠ .checkAck) (hp : P ins s) :
    ∃ t, steps ins.length s = .next t ∧ EndedAfter s t rest (stepList s.sclRef s.sdaRef i t.sr t.ackbit) ∧
      t.ackbit = s.ackbit ∧ t.drv s.sclRef = x ∧ t.drv s.sdaRef = y ∧ P [] t := by
  obtain ⟨t, hsteps, hended, hruns, hdrives⟩ := h.runs hi hlen
  obtain ⟨-, -, -, hscl, hsda⟩ := hruns.command
  have hunder := h.underway hi
  obtain ⟨-, -, -, -, -, hk, hw, henv, hins⟩ := h
  have htogo : stepsToGo i s = stepsFrom i 0 := by rw [stepsToGo, hk, hw]; rfl
  obtain ⟨t', hsteps', hkept⟩ := hunder.runs_keeping hkeep henv hins (hlen.trans htogo.symm) hp
  obtain rfl := Host.Outcome.next.inj (hsteps.symm.trans hsteps')
  rw [hend] at hdrives
  exact ⟨t, hsteps, hended, hruns.ackbit hck, hscl ▸ hdrives.1 x rfl, hsda ▸ hdrives.2 y rfl, hkept⟩

theorem EndedAfter.due_eq {tr : List Event} (h : EndedAfter s t rest tr) : t.due = .ended := by
  obtain ⟨-, hdue, -⟩ := h
  exact hdue

/-! ### The end of a byte -/

theorem delayStep_nextPos_due (s : State) : (delayStep State.nextPos s).due = s.due := by
  rcases delayStep_cases State.nextPos s with ⟨-, h⟩ | ⟨-, -, h⟩ | ⟨-, -, h⟩ <;> rw [h] <;> rfl

/-- A step of a delay that ends the micro-op is the end of that delay. -/
theorem delayStep_ended {fin : State → State} (hd : s.due = .uop) (hended : (delayStep fin s).due = .ended) :
    delayStep fin s = fin (endDelay s) := by
  rcases delayStep_cases fin s with ⟨-, h⟩ | ⟨-, -, h⟩ | ⟨-, -, h⟩
  case inr.inl => exact h
  all_goals
    rw [h] at hended
    exact absurd (hd.symm.trans hended) nofun

/-- The loop over the bits of a byte ends when the last one has been counted (42_byte_shift R120, R121). -/
theorem endBit_ended (hd : s.due = .uop) (hended : (endBit s).due = .ended) :
    s.bitcnt = 1#4 ∧ (endBit s).bitcnt = 0#4 := by
  rcases endBit_cases s with ⟨hone, h⟩ | ⟨-, h⟩ <;> rw [h] at hended ⊢
  · exact ⟨hone, rfl⟩
  · exact absurd (hd.symm.trans hended) nofun

/-- When TX_BYTE ends, every bit has been shifted out (42_byte_shift R120). -/
theorem TxStep.ended (hs : ShiftAt (.txByte b) s) (hlt : s.upos < 40) (hd : s.due = .uop) (h : TxStep b s r)
    (hended : r.due = .ended) : r.sr = 0x00#8 ∧ r.bitcnt = 0#4 := by
  cases h with
  | load | drive => simp [hd] at hended
  | high | low => exact absurd (hd.symm.trans hended) nofun
  | delay => exact absurd (hd.symm.trans ((delayStep_nextPos_due s).symm.trans hended)) nofun
  | bitEnds hmod =>
    have hfin := delayStep_ended hd hended
    rw [hfin] at hended ⊢
    obtain ⟨hsr, hbit⟩ := hs.resolve_left (by omega)
    obtain ⟨hone, hzero⟩ := endBit_ended (s := shiftIn 0#1 (endDelay s)) hd hended
    have hlast : s.upos / 5 = 7 := by
      have hcnt : BitVec.ofNat 4 (8 - s.upos / 5) = 1#4 := hbit.symm.trans hone
      bv_omega
    refine ⟨?_, hzero⟩
    rw [endTxBit, endBit_sr, shiftIn_sr, endDelay_sr, shiftIn_zero, hsr, hlast, ← BitVec.shiftLeft_add]
    exact BitVec.shiftLeft_eq_zero (le_refl 8)

/-- When RX_BYTE ends, every bit has been counted (42_byte_shift R121). -/
theorem RxStep.ended (hd : s.due = .uop) (h : RxStep s r) (hended : r.due = .ended) : r.bitcnt = 0#4 := by
  cases h with
  | load | high | sample | low => exact absurd (hd.symm.trans hended) nofun
  | delay => exact absurd (hd.symm.trans ((delayStep_nextPos_due s).symm.trans hended)) nofun
  | bitEnds =>
    have hfin := delayStep_ended hd hended
    rw [hfin] at hended ⊢
    exact (endBit_ended (s := endDelay s) hd hended).2

/-- If TX_BYTE has ended, it has shifted its byte out of `SR`. -/
def ShiftedOut (s : State) : Prop := s.due = .ended → s.sr = 0x00#8 ∧ s.bitcnt = 0#4

theorem Underway.exec_shiftedOut (h : Underway (.txByte b) s) (he : exec (.txByte b) s = .next r) :
    ShiftedOut (envStep r) := by
  obtain ⟨-, hlt, -, hshift⟩ := h.performing.running h.due
  exact ((txStep_of_exec he).ended hshift hlt h.due :)

/-! ### The samples of RX_BYTE -/

/-- TX_BYTE takes a step for each of its forty actions and another one for each of its sixteen delays, whatever the byte
(42_byte_shift R120). -/
theorem stepsFrom_txByte (b : Byte) : stepsFrom (.txByte b) 0 = 56 := (rfl : stepsFrom (.txByte 0) 0 = 56)

/-- RX_BYTE takes a step for each action and another one for each of its delays (42_byte_shift R121). -/
theorem stepsFrom_rxByte (hk : k ≤ 41) : stepsFrom .rxByte k + (k + (k + 2) / 5 + (k - 1) / 5) = 57 := by
  interval_cases k <;> rfl

/-- RX_BYTE samples bit `m` when that sample is followed by `7 * m + 3` steps. -/
theorem Underway.stepsToGo_eq_iff_samples (h : Underway .rxByte s) (hm : m < 8) :
    stepsToGo .rxByte s = 7 * m + 4 ↔ s.upos % 5 = 3 ∧ m = 7 - s.upos / 5 := by
  obtain ⟨-, hlt, hdw, -⟩ := h.performing.running h.due
  have hsum := stepsFrom_rxByte hlt.le
  simp only [opLength] at hlt
  rw [stepsToGo]
  rcases bit_cases s.dlyWait with hw | hw
  · rw [hw, show (0#1).toNat = 0 from rfl]
    rcases (by omega : s.upos % 5 = 0 ∨ s.upos % 5 = 1 ∨ s.upos % 5 = 2 ∨ s.upos % 5 = 3 ∨ s.upos % 5 = 4) with
      h | h | h | h | h <;> omega
  · have hdelay := hdw hw
    simp only [delayAt, Bool.or_eq_true, Bool.and_eq_true, beq_iff_eq, bne_iff_ne] at hdelay
    rw [hw, show (1#1).toNat = 1 from rfl]
    omega

/-- Where RX_BYTE samples, `ins` being the inputs of its last steps, the bus gives the bits of `b`
(42_byte_shift R122). -/
def LevelsGive (b : Byte) (ins : List Inputs) : Prop :=
  ∀ m < 8, ∀ j, j + (7 * m + 4) = ins.length → (ins.getD j Inputs.quiet).sdaLevel = bitOf b m

theorem LevelsGive.tail {x : Inputs} (h : LevelsGive b (x :: ins)) : LevelsGive b ins := fun m hm j hj =>
  h m hm (j + 1) (by rw [List.length_cons]; omega)

theorem LevelsGive.head {x : Inputs} (h : LevelsGive b (x :: ins)) (hm : m < 8) (hlen : ins.length + 1 = 7 * m + 4) :
    x.sdaLevel = bitOf b m :=
  h m hm 0 (by rw [List.length_cons]; omega)

theorem levelsGive_of_wireBits (hlen : ins.length = 57)
    (h : ([4, 11, 18, 25, 32, 39, 46, 53].map fun k => (ins.getD k Inputs.quiet).sdaLevel) = wireBits b) :
    LevelsGive b ins := by
  intro m hm j hj
  obtain rfl : j = 53 - 7 * m := by omega
  have hbit := congrArg (·[7 - m]?) h
  simp only [wireBits_getElem? b (show 7 - m < 8 by omega)] at hbit
  interval_cases m <;> exact Option.some.inj hbit

/-- The bits RX_BYTE has sampled; at its end they are those of `SR`. -/
def received (s : State) : Byte := if s.due = .uop then receivedSoFar s else s.sr

/-- A step of RX_BYTE keeps the bits received and, if it samples, adds the level of SDA (42_byte_shift R121). -/
theorem bitOf_received_exec (hp : Performing .rxByte s) (hd : s.due = .uop) (he : exec .rxByte s = .next r)
    (hm : m < 8) :
    bitOf (received r) m = if s.upos % 5 = 3 ∧ m = 7 - s.upos / 5 then s.sdaRead else bitOf (received s) m := by
  obtain ⟨-, hlt, -, hshift⟩ := hp.running hd
  have hreceived : received s = receivedSoFar s := if_pos hd
  have hdelay (h : delayAt .rxByte s.upos = true) : s.upos % 5 ≠ 3 := by
    simp only [delayAt, Bool.or_eq_true, Bool.and_eq_true, beq_iff_eq] at h
    omega
  cases exec_microOpStep rfl hshift he with
  | acts h =>
    rw [hreceived, received, if_pos (h.due.trans hd)]
    by_cases hmod : s.upos % 5 = 3
    · rw [bitOf_receivedSoFar_of_sample ((h.sr rfl).trans (if_pos hmod)) h.upos hmod hlt hm]
      simp only [hmod, true_and]
    · rw [receivedSoFar_of_no_sample ((h.sr rfl).trans (if_neg hmod)) h.upos hmod, if_neg fun h => hmod h.1]
  | delayBegins h | waits h => rw [if_neg fun h' => hdelay h h'.1]; rfl
  | delayEnds h =>
    have hpos := h.position
    rw [if_neg fun h' => hdelay h.delay h'.1, hreceived, received]
    split at hpos
    · rename_i hlast
      rw [if_neg (by rw [hpos.2]; nofun), h.sr rfl, receivedSoFar, hlast]
      exact congrArg (bitOf · m) (BitVec.shiftLeft_zero _).symm
    · rw [if_pos (hpos.2.trans hd), receivedSoFar_of_no_sample (h.sr rfl) hpos.1 (hdelay h.delay)]

/-- From its first action on RX_BYTE leaves SDA released (42_byte_shift R121). -/
theorem RxStep.sda_released (hne : s.sclRef ≠ s.sdaRef) (hrel : s.upos ≠ 0 → s.drv s.sdaRef = .rel) (h : RxStep s r) :
    r.drv s.sdaRef = .rel := by
  cases h with
  | load => exact (setLineHigh_drv .sda _ _).trans (if_pos rfl)
  | high hmod => exact ((setLineHigh_drv .scl s _).trans (if_neg hne.symm)).trans (hrel (by omega))
  | low hmod => exact ((setLineLow_drv .scl s _).trans (if_neg hne.symm)).trans (hrel (by omega))
  | sample hmod => exact hrel (by omega)
  | delay hmod =>
    rcases delayStep_cases State.nextPos s with ⟨-, h⟩ | ⟨-, -, h⟩ | ⟨-, -, h⟩ <;> rw [h] <;> exact hrel (by omega)
  | bitEnds hk =>
    rcases delayStep_cases endBit s with ⟨-, h⟩ | ⟨-, -, h⟩ | ⟨-, -, h⟩ <;> rw [h]
    on_goal 2 => rw [State.drv, endBit_drvLow]
    all_goals exact hrel hk

/-- RX_BYTE is receiving `b`, `ins` being the inputs of the steps it still needs: the bits sampled are those of `b`, and the
bus will give the others. -/
structure Receiving (b : Byte) (ins : List Inputs) (s : State) : Prop where
  pins : s.sclRef ≠ s.sdaRef
  released : s.upos ≠ 0 → s.drv s.sdaRef = .rel
  sampled : ∀ m < 8, ins.length < 7 * m + 4 → bitOf (received s) m = bitOf b m
  toCome : LevelsGive b ins
  counted : s.due = .ended → s.bitcnt = 0#4

theorem Underway.exec_receiving (h : Underway .rxByte s) (hlen : ins.length + 1 = stepsToGo .rxByte s)
    (he : exec .rxByte s = .next r) (hrec : Receiving b (s.now :: ins) s) : Receiving b ins (envStep r) := by
  have hacted := exec_acted rfl he
  have hstep := rxStep_of_exec he
  have hrel := hstep.sda_released hrec.pins hrec.released
  have hbusy : r.busy = 1#1 := busy_of_status (hacted.status_eq.trans h.status)
  refine ⟨?_, fun _ => ?_, fun m hm hover => ?_, hrec.toCome.tail, (hstep.ended h.due :)⟩
  · rw [envStep_sclRef, envStep_sdaRef, hacted.sclRef_eq, hacted.sdaRef_eq]
    exact hrec.pins
  · rw [envStep_sdaRef, envStep_drv_of_busy hbusy (.inr rfl), hacted.sdaRef_eq]
    exact hrel
  · refine (bitOf_received_exec h.performing h.due he hm).trans ?_
    have hiff := h.stepsToGo_eq_iff_samples hm
    split
    · rename_i hsample
      have hnow := hiff.mpr hsample
      rw [sdaRead_of_released (hrec.released (by omega))]
      exact hrec.toCome.head hm (hlen.trans hnow)
    · rename_i hsample
      have hnow := mt hiff.mp hsample
      exact hrec.sampled m hm (by rw [List.length_cons]; omega)

end Sys2Proof.Safety

namespace Sys2Proof

open Machine Safety

/-- Settles O20: TX_BYTE has forty actions, sixteen of them delays of two steps each; the end of a bit that ends TX_BYTE is
that of bit 0, and the byte has then been shifted up eight times. -/
theorem txByteRunsToItsEnd : Obligations.TxByteRunsToItsEnd := by
  unfold Obligations.TxByteRunsToItsEnd
  intro b s ins rest h hlen
  have hbegun : ShiftedOut s := by
    obtain ⟨-, -, -, -, hd, -⟩ := h
    exact fun hended => absurd (hd.symm.trans hended) nofun
  have hend : drivesAt (.txByte b) (opLength (.txByte b)) =
      (some .low, some (if bitOf b 0 = 1#1 then .rel else .low)) := by
    by_cases hb : bitOf b 0 = 1#1 <;> simp [drivesAt, opLength, hb]
  obtain ⟨t, hsteps, hended, hack, hscl, hsda, hout⟩ := h.runs_keeping (P := fun _ => ShiftedOut)
    (fun hunder _ he _ => hunder.exec_shiftedOut he) rfl (hlen.trans (stepsFrom_txByte b).symm) hend nofun hbegun
  obtain ⟨hsr, hbit⟩ := hout hended.due_eq
  exact ⟨t, hlen ▸ hsteps, hended, hsr, hbit, hack, hscl, hsda⟩

/-- Settles O21: every sample of RX_BYTE finds SDA released and so reads the level the bus gives, and the sample of bit `m`
is followed by `7 * m + 3` steps. -/
theorem rxByteRunsToItsEnd : Obligations.RxByteRunsToItsEnd := by
  unfold Obligations.RxByteRunsToItsEnd
  intro b s ins rest h hlen hlevels
  have hbegun : Receiving b ins s := by
    obtain ⟨-, -, hne, -, hd, hk, -⟩ := h
    exact ⟨hne, fun hk' => absurd hk hk', fun m hm hlt => by omega, levelsGive_of_wireBits hlen hlevels,
      fun hended => absurd (hd.symm.trans hended) nofun⟩
  obtain ⟨t, hsteps, hended, hack, hscl, hsda, hrec⟩ := h.runs_keeping (P := Receiving b)
    (fun hunder hlen he => hunder.exec_receiving hlen he) rfl hlen rfl nofun hbegun
  obtain rfl : t.sr = b := by
    have hbits := byte_ext fun m hm => hrec.sampled m hm (Nat.succ_pos _)
    rwa [received, if_neg (by rw [hended.due_eq]; nofun)] at hbits
  exact ⟨t, hlen ▸ hsteps, hended, rfl, hrec.counted hended.due_eq, hack, hscl, hsda⟩

end Sys2Proof
end

section
/-! The micro-ops of the ninth clock pulse as a whole: CHECK_ACK leaves in `ACKBIT` the level the bus gives at its one
sample, SEND_ACK and SEND_NACK write no register of a sub-block (43_ack R140 to R143). -/

namespace Sys2Proof.Safety

open Sys2Proof.Machine

variable {s r t : State} {i : Instr} {b : Bit} {ins rest : List Inputs}

theorem RunsTo.refl (i : Instr) (s : State) : RunsTo i s s :=
  ⟨rfl, ⟨rfl, rfl, rfl, rfl, rfl⟩, rfl, rfl, rfl, rfl, fun _ _ => ⟨rfl, rfl⟩, fun _ => rfl,
    [], (List.append_nil _).symm, (List.append_nil _).symm, fun _ hp => hp⟩

/-- A micro-op waits only in a delay of its step list. -/
theorem Underway.dlyWait_of_no_delay (h : Underway i s) (hno : delayAt i s.upos = false) : s.dlyWait = 0#1 := by
  obtain ⟨-, -, hdw, -⟩ := h.performing.running h.due
  exact (bit_cases _).resolve_right fun hw => Bool.false_ne_true (hno.symm.trans (hdw hw))

/-- The sample of CHECK_ACK is followed by three steps (43_ack R140). -/
theorem Underway.stepsToGo_eq_iff_checks (h : Underway .checkAck s) : stepsToGo .checkAck s = 4 ↔ s.upos = 3 := by
  obtain ⟨-, hlt, -⟩ := h.performing.running h.due
  have hw : s.upos = 3 → s.dlyWait = 0#1 := fun h3 => h.dlyWait_of_no_delay (by rw [h3]; rfl)
  rw [stepsToGo]
  generalize s.upos = k at hlt hw ⊢
  generalize s.dlyWait = w at hw ⊢
  simp only [opLength] at hlt
  revert w
  interval_cases k <;> decide

/-- CHECK_ACK has released SDA when it samples, whatever drove the lines before it (43_ack R140, R143). -/
theorem RunsTo.sda_released_of_checks (h : RunsTo .checkAck s t) (hbegun : uopSoFar s = [])
    (hunder : Underway .checkAck t) (h3 : t.upos = 3) : t.drv t.sdaRef = .rel := by
  obtain ⟨es, -, hsofar, hdrives⟩ := h.emits
  obtain ⟨-, -, -, hscl, hsda⟩ := h.command
  obtain ⟨hu, -⟩ := hunder.performing.running hunder.due
  have hw : t.dlyWait = 0#1 := hunder.dlyWait_of_no_delay (by rw [h3]; rfl)
  have hes : es = [.high s.sdaRef, .high s.sclRef, .delay] := by
    rw [hbegun, List.nil_append, uopSoFar_of_running hunder.due, uopTrace_of_running rfl hu hunder.due, h3, hw, hscl,
      hsda] at hsofar
    exact hsofar.symm
  obtain ⟨-, hrel⟩ := hdrives (none, none) ⟨nofun, nofun⟩
  exact hrel .rel (by simp [hes, drivesAfter])

/-- Only the sample of CHECK_ACK writes `ACKBIT` (43_ack R140). -/
theorem ackbit_of_exec_checkAck (he : exec .checkAck s = .next r) :
    r.ackbit = if s.upos = 3 then s.sdaRead else s.ackbit := by
  have hno (hdelay : delayAt .checkAck s.upos = true) : s.upos ≠ 3 := fun h3 => by
    rw [h3] at hdelay
    exact Bool.false_ne_true hdelay
  cases execCheckAck_step he with
  | acts h => exact h.ackbit rfl
  | delayBegins hdelay | waits hdelay => exact (if_neg (hno hdelay)).symm
  | delayEnds h => exact h.ackbit.trans (if_neg (hno h.delay)).symm

/-- What `ACKBIT` holds at the end of CHECK_ACK, `ins` being the inputs of the steps it still needs: it is there already,
or the bus gives it at the sample, three steps before the last (43_ack R140, R143). -/
def ackAtEnd (ins : List Inputs) (s : State) : Bit :=
  if ins.length < 4 then s.ackbit else (ins.getD (ins.length - 4) Inputs.quiet).sdaLevel

/-- A step of CHECK_ACK that finds SDA released at the sample settles or keeps what `ACKBIT` holds at the end. -/
theorem Underway.ackAtEnd_exec (h : Underway .checkAck s) (hlen : ins.length + 1 = stepsToGo .checkAck s)
    (hrel : s.upos = 3 → s.drv s.sdaRef = .rel) (he : exec .checkAck s = .next r) :
    ackAtEnd ins (envStep r) = ackAtEnd (s.now :: ins) s := by
  have hsample := h.stepsToGo_eq_iff_checks
  simp only [ackAtEnd, List.length_cons, envStep_ackbit, ackbit_of_exec_checkAck he]
  by_cases h3 : s.upos = 3
  · have hfour := hsample.mpr h3
    have hthree : ins.length = 3 := by omega
    simp [hthree, h3, sdaRead_of_released (hrel h3)]
  · have hne : ins.length ≠ 3 := fun hthree => h3 (hsample.mp (by omega))
    by_cases hover : ins.length < 3
    · rw [if_pos (by omega), if_neg h3, if_pos (by omega)]
    · rw [if_neg (by omega), if_neg (by omega), show ins.length + 1 - 4 = ins.length - 4 + 1 by omega,
        List.getD_cons_succ]

/-- CHECK_ACK that began in `s₀` has come to `s` and will leave `b` in `ACKBIT`, `ins` being the inputs of the steps it
still needs. -/
structure Checking (s₀ : State) (b : Bit) (ins : List Inputs) (s : State) : Prop where
  runs : RunsTo .checkAck s₀ s
  bit : ackAtEnd ins s = b

theorem Underway.exec_checking {s₀ : State} (hbegun : uopSoFar s₀ = []) (h : Underway .checkAck s)
    (hlen : ins.length + 1 = stepsToGo .checkAck s) (he : exec .checkAck s = .next r)
    (hc : Checking s₀ b (s.now :: ins) s) : Checking s₀ b ins (envStep r) :=
  ⟨hc.runs.trans (h.exec_runsTo he),
    (h.ackAtEnd_exec hlen (hc.runs.sda_released_of_checks hbegun h) he).trans hc.bit⟩

/-- CHECK_ACK runs from its first action to its end and leaves in `ACKBIT` the level the bus gives at its fifth step. -/
theorem AtStartOf.ackbit_of_checks (h : AtStartOf .checkAck s ins rest) (hlen : ins.length = 8)
    (hsteps : steps ins.length s = .next t) : t.ackbit = (ins.getD 4 Inputs.quiet).sdaLevel := by
  have hunder := h.underway rfl
  obtain ⟨-, -, -, -, hd, hk, hw, henv, hins⟩ := h
  have htogo : stepsToGo .checkAck s = 8 := by rw [stepsToGo, hk, hw]; rfl
  have hbegun : uopSoFar s = [] := by rw [uopSoFar_of_running hd, hk, hw]; simp
  obtain ⟨t', hsteps', hc⟩ := hunder.runs_keeping (P := Checking s (ackAtEnd ins s))
    (fun hunder hlen he => hunder.exec_checking hbegun hlen he) henv hins (hlen.trans htogo.symm) ⟨.refl _ s, rfl⟩
  obtain rfl := Host.Outcome.next.inj (hsteps.symm.trans hsteps')
  have hbit : t.ackbit = ackAtEnd ins s := hc.bit
  rwa [ackAtEnd, hlen] at hbit

end Sys2Proof.Safety

namespace Sys2Proof

open Machine Safety

/-- Settles O22: CHECK_ACK has six actions, two of them delays of two steps each; SDA is released when it samples, at its
fifth step, and no later step writes `ACKBIT`. -/
theorem checkAckRunsToItsEnd : Obligations.CheckAckRunsToItsEnd := by
  unfold Obligations.CheckAckRunsToItsEnd
  intro s ins rest h hlen
  obtain ⟨t, hsteps, hended, hruns, hdrives⟩ := h.runs rfl hlen
  obtain ⟨-, -, -, hscl, hsda⟩ := hruns.command
  obtain ⟨hsr, hbitcnt⟩ := hruns.shift nofun nofun
  have hack := h.ackbit_of_checks hlen hsteps
  exact ⟨t, hlen ▸ hsteps, hack ▸ hended, hack, hsr, hbitcnt, hscl ▸ hdrives.1 .low rfl, hsda ▸ hdrives.2 .rel rfl⟩

/-- Settles O23: SEND_ACK has six actions, two of them delays of two steps each, and its last line action releases SDA. -/
theorem sendAckRunsToItsEnd : Obligations.SendAckRunsToItsEnd := by
  unfold Obligations.SendAckRunsToItsEnd
  intro s ins rest h hlen
  obtain ⟨t, hsteps, hended, hscl, hsda, hengines⟩ := h.runs_sameEngines rfl hlen rfl nofun nofun nofun
  exact ⟨t, hlen ▸ hsteps, hended, hengines, hscl, hsda⟩

/-- Settles O24: SEND_NACK has five actions, two of them delays of two steps each, and SDA stays released from the first. -/
theorem sendNackRunsToItsEnd : Obligations.SendNackRunsToItsEnd := by
  unfold Obligations.SendNackRunsToItsEnd
  intro s ins rest h hlen
  obtain ⟨t, hsteps, hended, hscl, hsda, hengines⟩ := h.runs_sameEngines rfl hlen rfl nofun nofun nofun
  exact ⟨t, hlen ▸ hsteps, hended, hengines, hscl, hsda⟩

end Sys2Proof
end

section
/-! What the block does with a command that is offered to it, and how `PHASE` moves from accept to `Complete`
(44_transactions R160, R163, R164). -/

namespace Sys2Proof.Machine

variable {i : Instr} {s r : State}

/-! ### What a step is about -/

/-- In IDLE, ready and without reset, the step is about the command offered (60_exceptions R196). -/
theorem fetch_of_offer (hrst : s.now.rst = false) (hp : s.phase = 0#3) (hb : s.busy = 0#1)
    (hv : s.now.cmdValid = true) (hcmd : decodeCmd s.now.cmdWord = .ok i) : fetch s = .run i := by
  have hready : s.cmdReady = true := by simp [State.cmdReady, hb, hrst]
  simp [fetch, hrst, hp, phaseOf, hv, hready, hcmd]

theorem fetch_of_complete (hrst : s.now.rst = false) (hp : s.phase = 4#3) (hd : s.due = .complete) :
    fetch s = .complete := by
  simp [fetch, hrst, hp, phaseOf, hd]

/-! ### The result that is reported -/

/-- `STATUS` after `Complete(res)`, by its fields and as a byte (10_state R26, 44_transactions R164). -/
theorem statusDone_fields (res : Result) :
    (statusDone res).extractLsb' 2 1 = (if res = .ackFailure then 1#1 else 0#1) ∧
      (statusDone res).extractLsb' 1 1 = 1#1 ∧ (statusDone res).extractLsb' 0 1 = 0#1 ∧
      statusDone res = if res = .ackFailure then 0x06#8 else 0x02#8 := by
  cases res <;> decide

/-! ### The phase that is chosen -/

/-- The loop test stays in phase DATA while a payload byte is left (44_transactions R161, R162). -/
theorem payloadLoop_phase (k : Nat) (s : State) : (payloadLoop k s).phase = if s.len ≤ k then 4#3 else 3#3 := by
  rcases payloadLoop_cases k s with ⟨hle, h⟩ | ⟨hlt, -, h⟩ | ⟨hlt, -, h⟩ <;> rw [h]
  · exact (if_pos hle).symm
  · exact (if_neg (Nat.not_le.mpr hlt)).symm
  · exact (if_neg (Nat.not_le.mpr hlt)).symm

end Sys2Proof.Machine

namespace Sys2Proof.Safety

open Sys2Proof.Machine

variable {s r t : State} {i : Instr}

/-! ### `PHASE` -/

/-- Behind a CHECK_ACK a NACK and the end of the payload lead to phase STOP (44_transactions R163). -/
theorem afterCheck_phase (k : Nat) (s : State) :
    (afterCheck k s).phase = if s.ackbit = 1#1 ∨ s.len ≤ k then 4#3 else 3#3 := by
  rcases afterCheck_cases k s with ⟨hack, h⟩ | ⟨hack, h⟩ <;> rw [h]
  · exact (if_pos (.inl hack)).symm
  · simp [payloadLoop_phase, hack]

theorem ControlSound.running (h : ControlSound s) (hp : s.phase ≠ 0#3) : Running s := by
  rcases h with ⟨h0, -⟩ | ⟨-, ⟨h, -⟩ | ⟨h, -⟩ | ⟨h, -⟩ | ⟨h, -⟩⟩
  · exact absurd h0 hp
  · exact .inl h
  · exact .inr (.inl h)
  · exact .inr (.inr (.inl h))
  · exact .inr (.inr (.inr h))

/-- `PHASE` moves only where a micro-op has ended or `Complete` is due (44_transactions R163). -/
theorem nextPhase_eq_self (hp : Running s) (hended : s.due ≠ .ended) (hcomplete : s.due ≠ .complete) :
    nextPhase s = s.phase := by
  rcases hp with hp | hp | hp | hp <;> simp [nextPhase, hp, hended, hcomplete]

/-- Only `Complete` leads a command back to IDLE (44_transactions R163). -/
theorem due_of_nextPhase_idle (hp : s.phase ≠ 0#3) (h : nextPhase s = 0#3) : s.due = .complete := by
  by_contra hd
  simp only [nextPhase, hp, hd, if_false] at h
  split_ifs at h <;> cases h

/-- The sequencer's choice after micro-op `i` leads to the phase of the table (44_transactions R163). -/
theorem phase_of_choice (hf : FitsWidths s) (hin : s.phase = 3#3 → s.idx < s.len) (hc : CurrentUop s i)
    (hperf : Performing i s) (hd : s.due = .ended) (hr : Choice s r) : r.phase = nextPhase s := by
  obtain ⟨hu, -⟩ := hperf.ended hd
  have hi {j : Instr} (hj : decodeUop s.uopWord = .ok j) : i = j := by
    rw [hu, decodeUop_encode hc.compound] at hj
    exact Except.ok.inj hj
  cases hr with
  | address hp hj =>
    have hp1 : s.phase = 1#3 := phaseOf_eq_some_iff.mp hp
    simp [nextPhase, hp1, hd]
  | checkAddress hp hj =>
    have hp2 : s.phase = 2#3 := phaseOf_eq_some_iff.mp hp
    obtain rfl := hi hj
    simp [nextPhase, hp2, hu, encode_injective.eq_iff]
  | addressChecked hp hj =>
    have hp2 : s.phase = 2#3 := phaseOf_eq_some_iff.mp hp
    obtain rfl := hi hj
    simp [nextPhase, hp2, hd, hu, afterCheck_phase]
  | checkByte hp hj =>
    have hp3 : s.phase = 3#3 := phaseOf_eq_some_iff.mp hp
    obtain rfl := hi hj
    simp [nextPhase, hp3, hu, encode_injective.eq_iff]
  | byteChecked hp hj =>
    have hp3 : s.phase = 3#3 := phaseOf_eq_some_iff.mp hp
    obtain rfl := hi hj
    have hlast : s.len ≤ s.idx + 1 ↔ s.idx + 1 = s.len := (Nat.le_antisymm_iff.trans (and_iff_right (hin hp3))).symm
    simp [nextPhase, hp3, hd, hu, afterCheck_phase, nextIdx_eq hf (hin hp3), hlast]
  | received hp hj =>
    have hp3 : s.phase = 3#3 := phaseOf_eq_some_iff.mp hp
    obtain rfl := hi hj
    simp [nextPhase, hp3, hu, encode_injective.eq_iff]
  | acknowledged hp hj =>
    have hp3 : s.phase = 3#3 := phaseOf_eq_some_iff.mp hp
    rw [payloadLoop_phase, nextIdx_eq hf (hin hp3)]
    rcases hj.imp hi hi with rfl | rfl
    · cases hc with
      | ack _ _ hmore => simp [nextPhase, hp3, hu, encode_injective.eq_iff, Nat.not_le.mpr hmore]
    · cases hc with
      | nack _ _ hlast => simp [nextPhase, hp3, hd, hu, encode_injective.eq_iff, hlast]
  | stopped hp hj =>
    have hp4 : s.phase = 4#3 := phaseOf_eq_some_iff.mp hp
    simp [nextPhase, hp4, hd]

/-- The core's part of a step of a command moves `PHASE` as the table says (44_transactions R163). -/
theorem phase_of_coreStep (hf : FitsWidths s) (h : ControlSound s) (hrst : s.now.rst = false) (hp : s.phase ≠ 0#3)
    (hr : CoreStep s r) : r.phase = nextPhase s := by
  have hrun := h.running hp
  cases hr with
  | reset hfetch => exact absurd (hrst.symm.trans (fetchedWhen_of_fetch hfetch)) Bool.false_ne_true
  | wait hfetch => exact absurd (fetchedWhen_of_fetch hfetch) hp
  | run i r hfetch he =>
    obtain ⟨hc, -, hd⟩ := h.performing_of_run hp hfetch
    rw [nextPhase_eq_self hrun (by simp [hd]) (by simp [hd])]
    exact (exec_acted hc.compound he).phase_eq
  | choose r hfetch he =>
    obtain ⟨-, hd⟩ := fetchedWhen_of_fetch hfetch
    obtain ⟨i, hc, hperf⟩ := h.currentUop hp (.inr hd)
    exact phase_of_choice hf (h.admitted hp).2 hc hperf hd (sequence_next he)
  | memRead r hfetch he =>
    obtain ⟨-, hd⟩ := fetchedWhen_of_fetch hfetch
    obtain ⟨-, rfl⟩ := readPayload_next he
    exact (nextPhase_eq_self hrun (by simp [hd]) (by simp [hd])).symm
  | memWrite r hfetch he =>
    obtain ⟨-, hd⟩ := fetchedWhen_of_fetch hfetch
    obtain ⟨-, rfl⟩ := writePayload_next he
    exact (nextPhase_eq_self hrun (by simp [hd]) (by simp [hd])).symm
  | complete hfetch =>
    obtain ⟨-, hd⟩ := fetchedWhen_of_fetch hfetch
    simp [nextPhase, (h.complete hp hd).1, hd]

/-- In IDLE a step that answers accepts an offer and goes to START, or stays (44_transactions R160, R163). -/
theorem phase_of_idle_step (hrst : s.now.rst = false) (hp : s.phase = 0#3) (hst : step s = .next t) :
    t.phase = nextPhase s := by
  by_cases hno : s.now.cmdValid = false ∨ s.busy = 1#1
  · rw [step_of_coreStep (.wait (fetch_of_idle hrst hp hno))] at hst
    cases hst
    rcases hno with h | h <;> simp [nextPhase, State.cmdReady, hp, h]
  · obtain ⟨hv, hb⟩ := not_or.mp hno
    have hvalid : s.now.cmdValid = true := eq_true_of_ne_false hv
    have hfree : s.busy = 0#1 := (bit_cases _).resolve_right hb
    rw [step_of_offer hrst hp hfree hvalid] at hst
    split at hst <;> cases hst
    simp [nextPhase, State.cmdReady, hp, hvalid, hfree, hrst]

end Sys2Proof.Safety

namespace Sys2Proof

open Machine Safety

/-- Settles O25: the step is about the command offered. -/
theorem stepRunsTheOfferedCommand : Obligations.StepRunsTheOfferedCommand := by
  unfold Obligations.StepRunsTheOfferedCommand
  intro s i hrst hp hb hv hcmd
  unfold step
  rw [fetch_of_offer hrst hp hb hv hcmd]

/-- Settles O11: a block that is not ready lets the host hold. -/
theorem busyBlockHoldsACommand : Obligations.BusyBlockHoldsACommand := by
  unfold Obligations.BusyBlockHoldsACommand
  intro i s hi hno
  have hready : s.cmdReady = false := by
    rcases hno with h | h <;> simp [State.cmdReady, h]
  have he : exec i s = .next s.noAction := by
    have hhold : acceptCommand (encode i) s = .next s.noAction := by simp [acceptCommand, hready]
    rcases hi with ⟨a, rfl⟩ | ⟨a, rfl⟩ <;> exact hhold
  exact ⟨_, he, ⟨rfl, rfl, rfl, rfl, rfl, rfl, rfl, rfl, rfl, rfl, rfl, rfl, rfl, rfl⟩, ⟨rfl, rfl, rfl⟩, fun _ => rfl,
    fun _ => rfl, rfl, rfl, rfl, rfl, rfl⟩

/-- Settles O30: the table holds for an idle block by what it is offered, and for a command by each part of its steps;
the environment does not write `PHASE`. -/
theorem phaseFollowsTheTable : Obligations.PhaseFollowsTheTable := by
  unfold Obligations.PhaseFollowsTheTable
  rintro s t ⟨hf, hc, -⟩ hrst hst
  by_cases hp : s.phase = 0#3
  · exact phase_of_idle_step hrst hp hst
  · obtain ⟨r, hr, rfl⟩ := step_next hst
    exact (envStep_phase r).trans (phase_of_coreStep hf hc hrst hp hr)

/-- Settles O34: behind STOP the sequencer only makes `Complete` due, and `Complete` writes `STATUS` and `PHASE`. -/
theorem completeReportsTheResult : Obligations.CompleteReportsTheResult := by
  unfold Obligations.CompleteReportsTheResult
  refine ⟨fun s hrst hp hd hu => ?_, fun s hrst hp hd => ?_⟩
  · have hchoice : Choice s { s.noAction with due := .complete } :=
      .stopped (phaseOf_eq_some_iff.mpr hp) (hu ▸ decodeUop_encode rfl)
    have hfetch : fetch s = .choose := fetch_of_ended hrst (.inr (.inr (.inr hp))) hd
    exact ⟨_, step_of_coreStep (.choose _ hfetch (sequence_of_choice hchoice)), rfl,
      ⟨rfl, rfl, rfl, rfl, rfl, rfl, rfl, rfl, rfl, rfl, rfl, rfl, rfl, rfl⟩, ⟨rfl, rfl, rfl⟩, fun _ => rfl,
      fun _ => rfl, rfl, rfl, rfl, rfl, rfl, rfl, rfl⟩
  · obtain ⟨hackfail, hdone, hbusy, hstatus⟩ := statusDone_fields s.result
    have hready : (completeCommand s.result s).cmdReady = true := by
      have hnow : (completeCommand s.result s).now = s.now := rfl
      simp [State.cmdReady, State.busy, hbusy, hnow, hrst]
    exact ⟨_, step_of_coreStep (.complete (fetch_of_complete hrst hp hd)), ⟨rfl, rfl, rfl⟩, hackfail, hdone, hbusy,
      hstatus, rfl, rfl, rfl, rfl, rfl, rfl, rfl, fun _ => rfl, fun _ => rfl, ⟨rfl, rfl, rfl⟩, rfl, rfl, rfl,
      ⟨rfl, rfl, rfl⟩, hready⟩

end Sys2Proof
end

section
/-! The end of a command: it comes within its bound while the timer advances, and the wire then carries the whole
transaction (44_transactions R161 to R169, 70_reset_and_hazards R216). -/

namespace Sys2Proof.Machine

variable {s r : State}

/-! ### The delay -/

/-- A step of the core leaves `DLY_WAIT` alone, clears it, or begins a delay and with it sets `TCNT` to 0
(40_delay_and_lines R90). -/
theorem CoreStep.dlyWait_cases (h : CoreStep s r) : r.dlyWait = s.dlyWait ∨ r.dlyWait = 0#1 ∨ r.tcnt = 0 := by
  cases h with
  | reset => exact .inr (.inl rfl)
  | wait | complete => exact .inl rfl
  | run i r _ he =>
    rcases exec_next he with ⟨a, ha, hr⟩ | ⟨-, -, rfl⟩
    · rw [hr]
      cases ha with
      | high | low | read | none => exact .inl rfl
      | endDelay => exact .inr (.inl rfl)
      | beginDelay => exact .inr (.inr rfl)
    · exact .inl rfl
  | choose r _ he => exact .inl (by cases sequence_next he <;> simp)
  | memRead r _ he => obtain ⟨-, rfl⟩ := readPayload_next he; exact .inl rfl
  | memWrite r _ he => obtain ⟨-, rfl⟩ := writePayload_next he; exact .inl rfl

end Sys2Proof.Machine

namespace Sys2Proof.Safety

open Sys2Proof.Machine

variable {s r t : State} {ins rest : List Inputs}

/-! ### The end of a command -/

/-- Every step keeps the invariants. -/
theorem Sound.of_step (h : Sound s) (hst : step s = .next t) : Sound t := by
  obtain ⟨hf, hc, -⟩ := id h
  exact ⟨widthsAndCanonicalFormsAreKept s t hf hst, sequencerStaysConsistent s t hf hc hst,
    driveStatesFollowTheStepLists s t h hst⟩

/-- A running command still needs a step. -/
theorem stepsLeft_pos (hp : Running s) : 0 < stepsLeft s := by
  rcases hp with hp | hp | hp | hp <;> simp only [stepsLeft, hp, BitVec.reduceEq, if_true, if_false]
  · omega
  · split <;> omega
  · split <;> omega
  · split <;> omega

/-- In an environment whose timer reaches the threshold between two steps, a step after which the core does not wait
leaves the next poll nothing to wait for (70_reset_and_hazards R216). -/
theorem not_waiting_of_prompt (h : ControlSound s) (hx : Prompt s.par s.now) (hp : s.phase ≠ 0#3) (hwait : ¬ Waiting s)
    (hr : CoreStep s r) : ¬ Waiting (envStep r) := by
  rintro ⟨-, hw, hlow⟩
  rw [envStep_tcnt, envStep_par, hr.par_eq, hr.now_eq] at hlow
  rw [envStep_dlyWait] at hw
  rcases bit_cases s.dlyWait with hw0 | hw1
  · rcases hr.dlyWait_cases with h | h | h
    · exact absurd (hw.symm.trans (h.trans hw0)) (by decide)
    · exact absurd (hw.symm.trans h) (by decide)
    · rw [h] at hlow
      exact absurd (ticked_of_prompt hx) (Nat.not_le.mpr hlow)
  · obtain ⟨-, ⟨ht, -⟩ | ⟨i, hend⟩⟩ := h.waiting_coreStep hx.1 hp hw1 hr
    · exact hwait ⟨h.due_of_waiting hp hw1, hw1, ht⟩
    · exact absurd (hw.symm.trans hend.dlyWait) (by decide)

/-- A step of a command in such an environment brings it nearer its end. -/
theorem Sound.prompt_step (h : Sound s) (hx : Prompt s.par s.now) (hp : s.phase ≠ 0#3) (hwait : ¬ Waiting s) :
    ∃ t, step s = .next t ∧ Sound t ∧ ¬ Waiting t ∧ t.par = s.par ∧ t.env = s.env.tail ∧
      stepsLeft t < stepsLeft s := by
  obtain ⟨-, hc, -⟩ := id h
  obtain ⟨r, hr⟩ := hc.exists_coreStep hx.1 hp
  have hst := step_of_coreStep hr
  obtain ⟨hpar, henv, -⟩ := hr.sameInputs
  refine ⟨_, hst, h.of_step hst, not_waiting_of_prompt hc hx hp hwait hr, hpar, congrArg List.tail henv, ?_⟩
  exact (everyStepButAWaitMakesProgress s _ h hp hx.1 hst).2 hwait

/-- The step that leads a command back to IDLE is its `Complete` (44_transactions R163, R164). -/
theorem Sound.completed (h : Sound s) (hrst : s.now.rst = false) (hp : s.phase ≠ 0#3) (hst : step s = .next t)
    (h0 : t.phase = 0#3) : t.busy = 0#1 ∧ t.done = 1#1 := by
  have hd : s.due = .complete := due_of_nextPhase_idle hp ((phaseFollowsTheTable s t h hrst hst).symm.trans h0)
  obtain ⟨-, hc, -⟩ := h
  obtain ⟨hp4, -⟩ := hc.complete hp hd
  obtain ⟨r, hst', -, -, hdone, hbusy, -⟩ := completeReportsTheResult.2 s hrst hp4 hd
  obtain rfl := Host.Outcome.next.inj (hst.symm.trans hst')
  exact ⟨hbusy, hdone⟩

/-- A command that does not wait ends within its bound while the timer advances (70_reset_and_hazards R216). -/
theorem Sound.ends (h : Sound s) (hp : s.phase ≠ 0#3) (hwait : ¬ Waiting s) (henv : s.env = ins ++ rest)
    (hins : ∀ x ∈ ins, Prompt s.par x) (hlen : stepsLeft s ≤ ins.length) :
    ∃ n t, n ≤ stepsLeft s ∧ steps n s = .next t ∧ t.phase = 0#3 ∧ t.busy = 0#1 ∧ t.done = 1#1 := by
  induction ins generalizing s with
  | nil =>
    obtain ⟨-, hc, -⟩ := h
    exact absurd hlen (Nat.not_le.mpr (stepsLeft_pos (hc.running hp)))
  | cons x ins ih =>
    obtain ⟨hx, hmore⟩ := List.forall_mem_cons.mp hins
    have hnow : s.now = x := by simp only [State.now, henv, List.cons_append]
    obtain ⟨t, hst, hs, hwait', hpar, henv', hlt⟩ := h.prompt_step (hnow ▸ hx) hp hwait
    by_cases h0 : t.phase = 0#3
    · exact ⟨1, t, by omega, by simp only [steps, hst], h0, h.completed (hnow ▸ hx.1) hp hst h0⟩
    · rw [List.length_cons] at hlen
      obtain ⟨n, u, hn, hsteps, hu⟩ := ih hs h0 hwait' (by rw [henv', henv]; rfl) (hpar ▸ hmore) (by omega)
      exact ⟨n + 1, u, by omega, by simp only [steps, hst, hsteps], hu⟩

/-! ### What a command has put on the wire -/

/-- A trace that ends with what the running command has emitted is that, after what was emitted before it. -/
theorem TraceSound.traceSince (h : TraceSound s) (hp : s.phase ≠ 0#3) : ∃ base, TraceSince base s := by
  obtain ⟨l, hl, base, hbase⟩ := h hp
  exact ⟨base, l, hl, hbase.symm⟩

/-- When `Complete` is due STOP has released both lines (41_start_stop R111). -/
theorem DrivesSound.released (h : DrivesSound s) (hp : s.phase ≠ 0#3) (hd : s.due = .complete) :
    s.drv s.sclRef = .rel ∧ s.drv s.sdaRef = .rel := by
  obtain ⟨-, -, -, hcomplete⟩ := h hp
  obtain ⟨hscl, hsda⟩ := hcomplete hd
  exact ⟨hscl _ rfl, hsda _ rfl⟩

end Sys2Proof.Safety

namespace Sys2Proof

open Machine Safety

/-- Settles O52: while the timer advances no step is a poll that waits, so each lowers the bound; the step into IDLE is
`Complete`. -/
theorem commandEndsWhileTheTimerAdvances : Obligations.CommandEndsWhileTheTimerAdvances := by
  unfold Obligations.CommandEndsWhileTheTimerAdvances
  intro s ins rest hs hp hw henv hins hlen
  exact hs.ends hp (fun ⟨_, h1, _⟩ => absurd (hw.symm.trans h1) (by decide)) henv hins hlen

/-- Settles O53: the trace is what came before the command and then exactly the command's own, so it ends with it; the
lines are where STOP leaves them. -/
theorem completedCommandHasTheSpecsTrace : Obligations.CompletedCommandHasTheSpecsTrace := by
  unfold Obligations.CompletedCommandHasTheSpecsTrace
  intro s hs htrace hrst hp hd
  have hrun : s.phase ≠ 0#3 := by rw [hp]; decide
  obtain ⟨-, -, hdrives⟩ := id hs
  obtain ⟨hscl, hsda⟩ := hdrives.released hrun hd
  obtain ⟨base, hbase⟩ := htrace.traceSince hrun
  obtain ⟨-, -, hwhole⟩ := commandEmitsExactlyItsTrace
  obtain ⟨t, hst, hwrite, hread, hfail⟩ := hwhole base s hs hbase hrst hp hd
  refine ⟨hscl, hsda, t, hst, fun hres hrw => ⟨base, (hwrite hres hrw).symm⟩,
    fun hres hrw => ⟨base, (hread hres hrw).symm⟩, fun hres => ?_⟩
  exact (hfail hres).imp (fun h => ⟨base, h.symm⟩) fun ⟨hrw, k, hk, h⟩ => ⟨hrw, k, hk, base, h.symm⟩

end Sys2Proof
end

section
/-! The abort of a command after a NACK, and a delay whose timer has stopped (60_exceptions R191, R192, R200). -/

namespace Sys2Proof.Machine

variable {s : State}

/-! ### The abort -/

/-- After a CHECK_ACK that sampled NACK, of the address or of a payload byte, the sequencer chooses the abort
(60_exceptions R192). -/
theorem choice_abort (hp : s.phase = 2#3 ∨ s.phase = 3#3) (hu : s.uopWord = encode .checkAck) (hack : s.ackbit = 1#1) :
    Choice s (enterStop .ackFailure s.noAction) := by
  have habort (k : Nat) : afterCheck k s.noAction = enterStop .ackFailure s.noAction :=
    if_pos (by simp [State.nacked, hack])
  have hdec : decodeUop s.uopWord = .ok .checkAck := hu ▸ Safety.decodeUop_encode rfl
  rcases hp with hp | hp
  · exact habort 0 ▸ .addressChecked (phaseOf_eq_some_iff.mpr hp) hdec
  · exact habort (nextIdx s) ▸ .byteChecked (phaseOf_eq_some_iff.mpr hp) hdec

/-! ### A timer that has stopped -/

/-- Without ticks `TCNT` keeps its value (10_state R37). -/
theorem ticked_of_stalled {p : Params} {x : Inputs} {n : Nat} (hx : Safety.Stalled x) (hn : n < 2 ^ p.timerWidth) :
    ticked p x n = n := by
  obtain ⟨-, h0⟩ := hx
  rw [ticked, h0, Nat.add_zero, if_pos hn]

end Sys2Proof.Machine

namespace Sys2Proof.Safety

open Sys2Proof.Machine

variable {s t u : State} {ins rest : List Inputs}

/-- The core waits at the same action of the same delay, and has emitted nothing. -/
def HeldInDelay (s t : State) : Prop :=
  Waiting t ∧ t.tcnt = s.tcnt ∧ t.trace = s.trace ∧ t.phase = s.phase ∧ t.uopWord = s.uopWord ∧ t.upos = s.upos ∧
    t.status = s.status

theorem HeldInDelay.refl (h : Waiting s) : HeldInDelay s s := ⟨h, rfl, rfl, rfl, rfl, rfl, rfl⟩

theorem HeldInDelay.trans (h : HeldInDelay s t) (h' : HeldInDelay t u) : HeldInDelay s u := by
  obtain ⟨-, htcnt, htrace, hphase, huop, hupos, hstatus⟩ := h
  obtain ⟨hw, htcnt', htrace', hphase', huop', hupos', hstatus'⟩ := h'
  exact ⟨hw, htcnt'.trans htcnt, htrace'.trans htrace, hphase'.trans hphase, huop'.trans huop, hupos'.trans hupos,
    hstatus'.trans hstatus⟩

/-- A command that waits does nothing in a step but poll (40_delay_and_lines R90). -/
theorem Sound.step_of_waiting (h : Sound s) (hrst : s.now.rst = false) (hp : s.phase ≠ 0#3) (hw : Waiting s) :
    step s = .next (envStep s.noAction) := by
  obtain ⟨hf, hc, -⟩ := h
  obtain ⟨r, hr⟩ := hc.exists_coreStep hrst hp
  obtain ⟨-, rfl⟩ | ⟨hno, -⟩ := stepsLeft_coreStep hf hc hrst hp hr
  · exact step_of_coreStep hr
  · exact absurd hw hno

/-- While the timer is stalled a poll finds `TCNT` where the last one found it (60_exceptions R200). -/
theorem heldInDelay_of_poll (hfits : s.tcnt < 2 ^ s.par.timerWidth) (hx : Stalled s.now) (hw : Waiting s) :
    HeldInDelay s (envStep s.noAction) := by
  have htcnt : (envStep s.noAction).tcnt = s.tcnt := ticked_of_stalled hx hfits
  obtain ⟨hd, h1, hlow⟩ := hw
  exact ⟨⟨hd, h1, htcnt.trans_lt hlow⟩, htcnt, rfl, rfl, rfl, rfl, rfl⟩

/-- A step with a stalled timer holds a command in its delay. -/
theorem Sound.stalled_step (h : Sound s) (hx : Stalled s.now) (hp : s.phase ≠ 0#3) (hw : Waiting s) :
    ∃ t, step s = .next t ∧ Sound t ∧ HeldInDelay s t ∧ t.env = s.env.tail := by
  obtain ⟨⟨-, -, -, -, -, -, hfits, -⟩, -⟩ := id h
  have hst := h.step_of_waiting hx.1 hp hw
  exact ⟨_, hst, h.of_step hst, heldInDelay_of_poll hfits hx hw, rfl⟩

/-- A command in a delay is held there for as long as the timer is stalled (60_exceptions R200). -/
theorem Sound.held_while_stalled (h : Sound s) (hp : s.phase ≠ 0#3) (hw : Waiting s) (henv : s.env = ins ++ rest)
    (hins : ∀ x ∈ ins, Stalled x) : ∃ t, steps ins.length s = .next t ∧ HeldInDelay s t := by
  induction ins generalizing s with
  | nil => exact ⟨s, rfl, .refl hw⟩
  | cons x ins ih =>
    obtain ⟨hx, hmore⟩ := List.forall_mem_cons.mp hins
    have hnow : s.now = x := by simp only [State.now, henv, List.cons_append]
    obtain ⟨t, hst, hs, hheld, henv'⟩ := h.stalled_step (hnow ▸ hx) hp hw
    obtain ⟨hwait, -, -, hphase, -⟩ := id hheld
    obtain ⟨u, hsteps, hu⟩ := ih hs (hphase ▸ hp) hwait (by rw [henv', henv]; rfl) hmore
    exact ⟨u, by simp only [List.length_cons, steps, hst, hsteps], hheld.trans hu⟩

end Sys2Proof.Safety

namespace Sys2Proof

open Machine Safety

/-- Settles O31: the step is the sequencer's choice, and that choice is the abort. -/
theorem nackAbortsToStop : Obligations.NackAbortsToStop := by
  unfold Obligations.NackAbortsToStop
  intro s hrst hp hd hu hack
  have hrun : Running s := .inr (hp.imp_right .inl)
  have hseq := sequence_of_choice (choice_abort hp hu hack)
  exact ⟨_, step_of_coreStep (.choose _ (fetch_of_ended hrst hrun hd) hseq), ⟨rfl, rfl, rfl⟩, rfl,
    enterStop_uopWord _ _, rfl, rfl, rfl, rfl, fun _ => rfl, fun _ => rfl, ⟨rfl, rfl, rfl⟩, rfl, rfl, rfl, rfl, rfl,
    rfl, rfl, rfl, rfl, ⟨rfl, rfl, rfl⟩⟩

/-- Settles O54: a poll of a stalled timer leaves the next step the same poll. -/
theorem stalledTimerHoldsTheDelay : Obligations.StalledTimerHoldsTheDelay := by
  unfold Obligations.StalledTimerHoldsTheDelay
  intro s ins rest hs hp hw henv hins
  exact hs.held_while_stalled hp hw henv hins

end Sys2Proof
end

section
/-! A step with `rst` = 1, and the counts of a trace: the line actions, the samples and the delays of every step list and the
delays of every whole command (70_reset_and_hazards R210, R219). -/

namespace Sys2Proof.Machine

variable {s : State}

/-- Reset wins over everything else a step could be about (60_exceptions R196, 70_reset_and_hazards R210). -/
theorem fetch_of_reset (hrst : s.now.rst = true) : fetch s = .reset := by simp [fetch, hrst]

end Sys2Proof.Machine

namespace Sys2Proof.Safety

open Sys2Proof.Machine

variable {i : Instr}

/-! ### Step lists -/

/-- Driving a bit onto SDA is a line action, neither a delay nor a sample (42_byte_shift R120). -/
theorem bitEvent_cases (d : Nat) (v : Bit) : bitEvent d v = .high d ∨ bitEvent d v = .low d := by
  unfold bitEvent
  split
  · exact .inl rfl
  · exact .inr rfl

theorem txBit_counts (c d : Nat) (v : Bit) :
    lineActions [bitEvent d v, .high c, .delay, .low c, .delay] = 3 ∧
      samples [bitEvent d v, .high c, .delay, .low c, .delay] = 0 ∧
      delays [bitEvent d v, .high c, .delay, .low c, .delay] = 2 := by
  rcases bitEvent_cases d v with h | h <;> rw [h] <;> exact ⟨rfl, rfl, rfl⟩

/-- What is counted in a byte is counted in each of its eight bits. -/
theorem countP_wireBits {p : Event → Bool} {f : Bit → List Event} {n : Nat} (h : ∀ v, (f v).countP p = n) (b : Byte) :
    ((wireBits b).flatMap f).countP p = 8 * n := by
  have hconst : List.countP p ∘ f = fun _ => n := funext h
  rw [List.countP_flatMap, hconst, List.map_const', List.sum_replicate]
  rfl

/-- The line actions, samples and delays of a whole step list are those of the table (70_reset_and_hazards R219). -/
theorem stepList_counts (hi : compound i = true) (c d : Nat) (b : Byte) (a : Bit) :
    lineActions (stepList c d i b a) = tableActions i ∧ samples (stepList c d i b a) = tableSamples i ∧
      delays (stepList c d i b a) = tableDelays i := by
  cases i with
  | start | stop | rxByte | checkAck | sendAck | sendNack => exact ⟨rfl, rfl, rfl⟩
  | txByte v =>
    have hbit := txBit_counts c d
    simp only [forall_and] at hbit
    obtain ⟨hactions, hsamples, hdelays⟩ := hbit
    exact ⟨countP_wireBits hactions v, countP_wireBits hsamples v, countP_wireBits hdelays v⟩
  | write | read | delayHalf | lineHigh | lineLow | lineRead => cases hi

/-- A micro-op takes a step for each of its line actions and two for each of its delays when no poll waits. -/
theorem stepsFrom_zero (hi : compound i = true) : stepsFrom i 0 = tableActions i + 2 * tableDelays i := by
  cases i with
  | txByte b => exact stepsFrom_txByte b
  | start | stop | rxByte | checkAck | sendAck | sendNack => rfl
  | write | read | delayHalf | lineHigh | lineLow | lineRead => cases hi

/-! ### Whole commands -/

@[simp] theorem delays_append (l l' : List Event) : delays (l ++ l') = delays l + delays l' := List.countP_append

@[simp] theorem delays_memRead_cons (x : Nat) (v : Byte) (l : List Event) : delays (.memRead x v :: l) = delays l := by
  simp [delays]

@[simp] theorem delays_memWrite_cons (x : Nat) (v : Byte) (l : List Event) : delays (.memWrite x v :: l) = delays l := by
  simp [delays]

@[simp] theorem delays_done (res : Result) : delays [.done res] = 0 := rfl

@[simp] theorem delays_stopTrace (c d : Nat) : delays (stopTrace c d) = 3 := rfl

@[simp] theorem delays_checkTrace (c d : Nat) (a : Bit) : delays (checkTrace c d a) = 2 := rfl

@[simp] theorem delays_rxTrace (c d : Nat) (v : Byte) : delays (rxTrace c d v) = 16 := rfl

@[simp] theorem delays_txTrace (c d : Nat) (v : Byte) : delays (txTrace c d v) = 16 := by
  obtain ⟨-, -, h⟩ := stepList_counts (i := .txByte v) rfl c d 0 0
  exact h

@[simp] theorem delays_addressTrace (c d : Nat) (addr : Byte) (a : Bit) : delays (addressTrace c d addr a) = 21 := by
  have hstart : delays (startTrace c d) = 3 := rfl
  simp [addressTrace, hstart]

/-- A payload byte of a WRITE, acknowledged or not, takes the delays of TX_BYTE and CHECK_ACK. -/
@[simp] theorem delays_writeByteTrace (c d x : Nat) (v : Byte) (a : Bit) : delays (writeByteTrace c d x v a) = 18 := by
  simp [writeByteTrace]

/-- A payload byte of a READ takes the delays of RX_BYTE and of its answer, which is SEND_ACK or SEND_NACK. -/
@[simp] theorem delays_readByteTrace (c d x : Nat) (v : Byte) (last : Bool) :
    delays (readByteTrace c d x v last) = 18 := by
  have hanswer : delays (if last then sendNackTrace c d else sendAckTrace c d) = 2 := by cases last <;> rfl
  simp [readByteTrace, hanswer]

@[simp] theorem delays_writePayloadTrace (c d x : Nat) (vs : List Byte) :
    delays (writePayloadTrace c d x vs) = 18 * vs.length := by
  induction vs generalizing x with
  | nil => rfl
  | cons v vs ih =>
    rw [writePayloadTrace, delays_append, delays_writeByteTrace, ih, List.length_cons, Nat.mul_succ, Nat.add_comm]

@[simp] theorem delays_readPayloadTrace (c d x : Nat) (vs : List Byte) :
    delays (readPayloadTrace c d x vs) = 18 * vs.length := by
  induction vs generalizing x with
  | nil => rfl
  | cons v vs ih =>
    rw [readPayloadTrace, delays_append, delays_readByteTrace, ih, List.length_cons, Nat.mul_succ, Nat.add_comm]

theorem delays_writeTrace (c d x : Nat) (addr : Byte) (vs : List Byte) :
    delays (writeTrace c d x addr vs) = 24 + 18 * vs.length := by
  rw [writeTrace, delays_append, delays_append, delays_append, delays_addressTrace, delays_writePayloadTrace,
    delays_stopTrace, delays_done]
  omega

theorem delays_readTrace (c d x : Nat) (addr : Byte) (vs : List Byte) :
    delays (readTrace c d x addr vs) = 24 + 18 * vs.length := by
  rw [readTrace, delays_append, delays_append, delays_append, delays_addressTrace, delays_readPayloadTrace,
    delays_stopTrace, delays_done]
  omega

theorem delays_addressFailTrace (c d : Nat) (addr : Byte) : delays (addressFailTrace c d addr) = 24 := by
  simp [addressFailTrace]

theorem delays_writeFailTrace (c d x : Nat) (addr : Byte) (vs : List Byte) (v : Byte) :
    delays (writeFailTrace c d x addr vs v) = 24 + 18 * (vs.length + 1) := by
  rw [writeFailTrace, delays_append, delays_append, delays_append, delays_append, delays_addressTrace,
    delays_writePayloadTrace, delays_writeByteTrace, delays_stopTrace, delays_done]
  omega

end Sys2Proof.Safety

namespace Sys2Proof

open Machine Safety

/-- Settles O29: the step is the reset, whose registers and outputs are those of `State.reset` and which leaves the timer,
the pins, the memory and the trace alone. -/
theorem resetWinsAndTouchesNothingOutside : Obligations.ResetWinsAndTouchesNothingOutside := by
  unfold Obligations.ResetWinsAndTouchesNothingOutside
  intro s hrst
  have hready : s.cmdReady = false := by simp [State.cmdReady, hrst]
  exact ⟨hready, resetBlock s, step_of_coreStep (.reset (fetch_of_reset hrst)), ⟨rfl, rfl, rfl⟩, rfl, rfl, rfl, rfl, rfl,
    rfl, fun _ => rfl, rfl, fun _ => rfl, rfl⟩

/-- Settles O56: what a micro-op adds to the trace is its step list, whose counts are the table's; what a command adds is
its whole transaction, with 24 delays for START, the address, its check and STOP, and 18 for each payload byte. -/
theorem delaysAreCountedAsTheSpecSays : Obligations.DelaysAreCountedAsTheSpecSays := by
  unfold Obligations.DelaysAreCountedAsTheSpecSays
  refine ⟨fun i s ins rest hi hstart hlen => ?_, fun base s hs htr hrst hp hd => ?_⟩
  · obtain ⟨t, hsteps, hended, -⟩ := hstart.runs hi (hlen.trans (stepsFrom_zero hi).symm)
    exact ⟨t, _, hsteps, hended, stepList_counts hi ..⟩
  · obtain ⟨-, -, hwhole⟩ := commandEmitsExactlyItsTrace
    obtain ⟨t, hst, hwrite, hread, hfail⟩ := hwhole base s hs htr hrst hp hd
    cases hres : s.result with
    | success =>
      rcases bit_cases s.rw with hrw | hrw
      · refine ⟨t, _, hst, hwrite hres hrw, fun _ => ?_, nofun⟩
        rw [delays_writeTrace, bytesFrom_length]
      · refine ⟨t, _, hst, hread hres hrw, fun _ => ?_, nofun⟩
        rw [delays_readTrace, bytesFrom_length]
    | ackFailure =>
      rcases hfail hres with h | ⟨hrw, k, hk, h⟩
      · exact ⟨t, _, hst, h, nofun, fun _ => .inl ⟨rfl, delays_addressFailTrace ..⟩⟩
      · refine ⟨t, _, hst, h, nofun, fun _ => .inr ⟨hrw, k, hk, ?_, rfl⟩⟩
        rw [delays_writeFailTrace, bytesFrom_length]

end Sys2Proof
end
